-- ==== Sys2Proof/Word.lean ====
section
/-! DEFINITION. The word types of the block: the binary64 pattern and the command word
(spec 00_scope.md R10, R11; 10_state.md R22; 30_encoding.md R70). -/

namespace Sys2Proof

/-- A binary64 bit pattern (R11): bit 63 the sign, bits 62:52 the exponent, bits 51:0 the fraction. -/
abbrev F64 := BitVec 64

/-- A command word `{cmd_op[2:0], cmd_data[63:0]}` (R70). -/
abbrev CmdWord := BitVec 67

end Sys2Proof
end

