-- ==== Sys2Proof/Syntax.lean ====
section
/-! DEFINITION. The command set BQF-CMD 1.0 as syntax (spec 30_encoding.md R70 to R78): one constructor for each row of
spec/opcode_table.json, the four reserved rows included. -/

namespace Sys2Proof

/-- The six response shapes, in the order of R76; the register `ftype` holds nothing else (R22, R25). -/
inductive FilterType where
  | lowPass
  | highPass
  | bandPass
  | notch
  | lowShelf
  | highShelf
  deriving DecidableEq, Repr

/-- The commands. A format F operand is a whole binary64 pattern (R71); the format T operand is the 3-bit field `sel`
(R72); a reserved opcode keeps the 64 bits it ignores (R77), so that encoding loses none. -/
inductive Instr where
  /-- `SETRATE r` (R122). -/
  | setRate (r : F64)
  /-- `SETCUT h` (R123). -/
  | setCut (h : F64)
  /-- `SETQ v` (R124). -/
  | setQ (v : F64)
  /-- `SETGAIN g` (R125). -/
  | setGain (g : F64)
  /-- `SETTYPE t`, `t` given by its type code `sel` (R126, R76). -/
  | setType (sel : BitVec 3)
  /-- `PROCESS u` (R140). -/
  | process (u : F64)
  /-- The reserved word with `op = 4`, `sel = 6` (R77 c). -/
  | reservedType6
  /-- The reserved word with `op = 4`, `sel = 7` (R77 c). -/
  | reservedType7
  /-- A reserved word with `op = 6` (R77 a). -/
  | reservedOp6 (data : F64)
  /-- A reserved word with `op = 7` (R77 a). -/
  | reservedOp7 (data : F64)
  deriving DecidableEq, Repr

end Sys2Proof
end

