-- ==== Sys2Proof/WellFormed.lean ====
section
/-! DEFINITION. Which terms of the syntax are commands or reserved rows of the table: the one operand with a checked range
is SETTYPE's type code (spec 30_encoding.md R74, R77). -/

namespace Sys2Proof

/-- `sel` is one of the six type codes (R74, R76). -/
def legalTypeCode (sel : BitVec 3) : Bool := sel.toNat ≤ 5

/-- Well-formedness: a SETTYPE carries a legal type code, since the words with `sel` 6 and 7 are the reserved rows; every
operand of every other row is admitted (R71, R77). -/
def Instr.wf : Instr → Bool
  | .setRate _ => true
  | .setCut _ => true
  | .setQ _ => true
  | .setGain _ => true
  | .setType sel => legalTypeCode sel
  | .process _ => true
  | .reservedType6 => true
  | .reservedType7 => true
  | .reservedOp6 _ => true
  | .reservedOp7 _ => true

/-- The rows that are commands: the six operations, not the reserved rows (R75, R77). -/
def Instr.isCommand : Instr → Bool
  | .setRate _ => true
  | .setCut _ => true
  | .setQ _ => true
  | .setGain _ => true
  | .setType sel => legalTypeCode sel
  | .process _ => true
  | .reservedType6 => false
  | .reservedType7 => false
  | .reservedOp6 _ => false
  | .reservedOp7 _ => false

end Sys2Proof
end

