-- ==== Sys2Proof/Decode.lean ====
section
/-! DEFINITION. Decoding a command word, total and rejecting by name, and encoding a command (spec 30_encoding.md R70 to R77). -/

namespace Sys2Proof

/-- Why a word decodes to no row of the table. -/
inductive Reject where
  /-- `op = 4` with `cmd_data[63:3]` not all zero (R77 b). -/
  | reservedTypeCode
  deriving DecidableEq, Repr

/-! ## The fields of a word (R70, R71, R72) -/

/-- `cmd[66:64]`. -/
def opField (w : CmdWord) : BitVec 3 := w.extractLsb' 64 3

/-- `cmd[63:0]`. -/
def dataField (w : CmdWord) : F64 := w.extractLsb' 0 64

/-- The `zero` field of format T, `cmd_data[63:3]`. -/
def zeroField (data : F64) : BitVec 61 := data.extractLsb' 3 61

/-- The `sel` field of format T, `cmd_data[2:0]`. -/
def selField (data : F64) : BitVec 3 := data.extractLsb' 0 3

/-! ## Decoding -/

/-- The words with `op = 4` (R74, R77): a legal type code, one of the two reserved rows, or no row. -/
def decodeType (data : F64) : Except Reject Instr :=
  if zeroField data ≠ 0#61 then .error .reservedTypeCode
  else if selField data = 6#3 then .ok .reservedType6
  else if selField data = 7#3 then .ok .reservedType7
  else .ok (.setType (selField data))

/-- The opcode map (R75). -/
def decodeWord (w : CmdWord) : Except Reject Instr :=
  if opField w = 0#3 then .ok (.setRate (dataField w))
  else if opField w = 1#3 then .ok (.setCut (dataField w))
  else if opField w = 2#3 then .ok (.setQ (dataField w))
  else if opField w = 3#3 then .ok (.setGain (dataField w))
  else if opField w = 4#3 then decodeType (dataField w)
  else if opField w = 5#3 then .ok (.process (dataField w))
  else if opField w = 6#3 then .ok (.reservedOp6 (dataField w))
  else .ok (.reservedOp7 (dataField w))

/-! ## Encoding -/

/-- The opcode of a row (R75). -/
def Instr.op : Instr → BitVec 3
  | .setRate _ => 0#3
  | .setCut _ => 1#3
  | .setQ _ => 2#3
  | .setGain _ => 3#3
  | .setType _ => 4#3
  | .process _ => 5#3
  | .reservedType6 => 4#3
  | .reservedType7 => 4#3
  | .reservedOp6 _ => 6#3
  | .reservedOp7 _ => 7#3

/-- The `cmd_data` of a row: the operand itself in format F, `zext_64(sel)` in format T (R73, R74). -/
def Instr.data : Instr → F64
  | .setRate r => r
  | .setCut h => h
  | .setQ v => v
  | .setGain g => g
  | .setType sel => sel.setWidth 64
  | .process u => u
  | .reservedType6 => 6#64
  | .reservedType7 => 7#64
  | .reservedOp6 d => d
  | .reservedOp7 d => d

/-- The command word of a row (R70, R79). -/
def encode (i : Instr) : CmdWord := i.op ++ i.data

/-! ## The table's numbering -/

/-- The instruction the decoder reads from the table's bits: bit 0 is the least significant bit of `cmd_data`, bits 66:64 are the
opcode. There is no bit 67 (R81), so a number that needs one is no word; log entry 16. -/
def decodeTableWord (nbits w : Nat) : Option Instr :=
  let v := w % 2 ^ nbits
  if v < 2 ^ 67 then
    match decodeWord (BitVec.ofNat 67 v) with
    | .ok i => some i
    | .error _ => none
  else none

end Sys2Proof
end

