-- ==== Sys2Proof/Config.lean ====
section
/-! DEFINITION. What is fixed when the block is built (spec 00_scope.md R9, 10_state.md R36) as a record, and the opaque
values the spec leaves open. The record's default instance is `Sys2Proof.Machine.config` of Machine/Params.lean. -/

namespace Sys2Proof

/-- `NUM`: three total functions of the operand's bits alone (40_numerics.md R100). -/
structure Num where
  fsin : F64 → F64
  fcos : F64 → F64
  fexp10 : F64 → F64

/-- `BPF_VARIANT`: the two band-pass numerators (43_coefficient_engine.md R154). -/
inductive BpfVariant where
  | constantPeak
  | constantSkirt
  deriving DecidableEq, Repr

/-- The nine implementation parameters of R9. -/
structure Config where
  tSmooth : F64
  cutoffReset : F64
  qReset : F64
  gainReset : F64
  typeReset : FilterType
  cntW : Nat
  num : Num
  bpf : BpfVariant
  latMax : Nat

/-- The `LAT_MAX` of the block that is modelled (R9, R220): a constant of the implementation with no number given; nothing may
lean on its value. Log entry 9. -/
opaque Config.unstatedLatMax : Nat

/-- The unspecified `rsp_data` of the n-th PROCESS before SETRATE (42_process_sample.md R146), a FREE VALUE: no body, so no
proof can see it. Log entry 13; two blocks, or two runs from reset, draw the same sequence of them: log entry 24. -/
opaque Config.unspecifiedSample : Nat → F64

/-- FREE VALUE: what a transcendental primitive of NUM_REF returns where the precision ladder of Machine/NumRef.lean does not
settle the rounding; no operand is known for which that happens. Its use is limited by R101 to R103. Log entry 4. -/
opaque Config.unsettledSin : F64 → F64

/-- FREE VALUE, as `Config.unsettledSin`, for the cosine. Log entry 4. -/
opaque Config.unsettledCos : F64 → F64

/-- FREE VALUE, as `Config.unsettledSin`, for the power of ten. Log entry 4. -/
opaque Config.unsettledExp10 : F64 → F64

end Sys2Proof
end

