-- ==== Sys2Proof/Machine/Float.lean ====
section
/-! DEFINITION. Binary64 arithmetic (spec 40_numerics.md R90 to R99, R105, R106). A finite magnitude is the exact natural number
of units of 2^-1074 it is worth, every exact result is a ratio of natural numbers, and there is one rounding, to the nearest
pattern with ties to even. -/

namespace Sys2Proof.Machine

/-! ## The format (R90, R11) -/

/-- The magnitude bits 62:0 of infinity: exponent 2047, fraction 0. -/
def infMag : Nat := 2047 * 2 ^ 52

/-- The one NaN that arithmetic returns (R97). -/
def qNaN : F64 := 0x7FF8000000000000#64

def posZero : F64 := 0x0000000000000000#64

def posInf : F64 := 0x7FF0000000000000#64

/-- Bit 63. -/
def signBit (x : F64) : Bool := x.toNat / 2 ^ 63 == 1

/-- Bits 62:0 as a number. -/
def magBits (x : F64) : Nat := x.toNat % 2 ^ 63

def isNaN (x : F64) : Bool := infMag < magBits x

def isInf (x : F64) : Bool := magBits x == infMag

def isZero (x : F64) : Bool := magBits x == 0

def isFinite (x : F64) : Bool := magBits x < infMag

/-- The pattern with a given sign and magnitude bits. -/
def packBits (neg : Bool) (m : Nat) : F64 := BitVec.ofNat 64 ((if neg then 2 ^ 63 else 0) + m)

/-- One unit is 2^-1074, so `2 ^ unitBits` units are 1. -/
def unitBits : Nat := 1074

/-- The value, in units, of the finite magnitude bits `m`: `2^(e-1) * (2^52 + fraction)` for a normal number with exponent field
`e`, the fraction itself for a subnormal one or zero. -/
def unitsOf (m : Nat) : Nat :=
  if m < 2 ^ 52 then m else (2 ^ 52 + m % 2 ^ 52) * 2 ^ (m / 2 ^ 52 - 1)

/-- The exact value of a finite pattern, in units. -/
def valueOf (x : F64) : Int :=
  if signBit x then -(unitsOf (magBits x) : Int) else (unitsOf (magBits x) : Int)

/-! ## Rounding (R91: nearest, ties to even; overflow to infinity; R98: gradual underflow) -/

/-- How many low bits of a result of `q` whole units lie below the 53-bit significand. -/
def dropBits (q : Nat) : Nat := Nat.log2 q - 52

/-- The quotient `num / den` rounded to the nearest natural number, ties to even. -/
def roundDiv (num den : Nat) : Nat :=
  let n := num / den
  let r := num % den
  if den < 2 * r then n + 1
  else if 2 * r == den then n + n % 2
  else n

/-- The magnitude bits of the binary64 nearest to `num / den` units. With `k` bits dropped and the significand rounded to `n`,
the magnitude bits are `n + k * 2^52`, whether subnormal, normal or carried over; from `infMag` on the result is infinity. -/
def roundUnits (num den : Nat) : Nat :=
  let k := dropBits (num / den)
  min (roundDiv num (den * 2 ^ k) + k * 2 ^ 52) infMag

/-! ## The primitives -/

/-- R96. -/
def fneg (a : F64) : F64 :=
  if isNaN a then qNaN else packBits (!signBit a) (magBits a)

/-- The sum of two finite values: exact, then rounded once; an exact zero sum is `-0.0` only for two negative zeros (R91). -/
def faddFinite (a b : F64) : F64 :=
  let v := valueOf a + valueOf b
  if v == 0 then packBits (signBit a && signBit b) 0
  else packBits (v < 0) (roundUnits v.natAbs 1)

/-- R91. -/
def fadd (a b : F64) : F64 :=
  if isNaN a || isNaN b then qNaN
  else if isInf a then (if isInf b && signBit a != signBit b then qNaN else a)
  else if isInf b then b
  else faddFinite a b

/-- R92. -/
def fsub (a b : F64) : F64 :=
  if isNaN a || isNaN b then qNaN else fadd a (fneg b)

/-- R93. -/
def fmul (a b : F64) : F64 :=
  let neg := signBit a != signBit b
  if isNaN a || isNaN b then qNaN
  else if isInf a || isInf b then (if isZero a || isZero b then qNaN else packBits neg infMag)
  else packBits neg (roundUnits (unitsOf (magBits a) * unitsOf (magBits b)) (2 ^ unitBits))

/-- R94. An infinity divided by a finite value is an infinity: R94 does not list that case; log entry 6 (DEDUCED). -/
def fdiv (a b : F64) : F64 :=
  let neg := signBit a != signBit b
  if isNaN a || isNaN b then qNaN
  else if isInf a then (if isInf b then qNaN else packBits neg infMag)
  else if isInf b then packBits neg 0
  else if isZero b then (if isZero a then qNaN else packBits neg infMag)
  else packBits neg (roundUnits (unitsOf (magBits a) * 2 ^ unitBits) (unitsOf (magBits b)))

/-- The largest magnitude bits below `acc + 2^n`, built bit by bit on `acc`, whose value squared is at most `target`
(the value of a pattern grows with its magnitude bits). -/
def sqrtFloorBits (target : Nat) : (n : Nat) → (acc : Nat) → Nat
  | 0, acc => acc
  | n + 1, acc =>
    let m := acc + 2 ^ n
    if unitsOf m * unitsOf m ≤ target then sqrtFloorBits target n m
    else sqrtFloorBits target n acc

/-- The magnitude bits nearest to the square root of `n` units: the pattern below it or the next one, by comparing the
root with their midpoint; a midpoint itself goes to the even one. -/
def sqrtUnits (n : Nat) : Nat :=
  let target := n * 2 ^ unitBits
  let m := sqrtFloorBits target 63 0
  let mid := unitsOf m + unitsOf (m + 1)
  if mid * mid < 4 * target then m + 1
  else if mid * mid == 4 * target then m + m % 2
  else m

/-- R95. -/
def fsqrt (a : F64) : F64 :=
  if isNaN a then qNaN
  else if isZero a then a
  else if signBit a then qNaN
  else if isInf a then a
  else packBits false (sqrtUnits (unitsOf (magBits a)))

/-- The order of non-NaN patterns as integers: equal for the two zeros, infinities at the ends (R105). -/
def orderKey (x : F64) : Int := if signBit x then -(magBits x : Int) else (magBits x : Int)

/-- R105. -/
def fge (a b : F64) : Bool := !isNaN a && !isNaN b && decide (orderKey b ≤ orderKey a)

/-- R106: exact for every counter of at most 53 bits, the default width among them. Of a wider counter, which R106 does not speak of, it is
the nearest binary64, ties to even: the model's choice, log entry 22. -/
def u2f (n : Nat) : F64 := packBits false (roundUnits (n * 2 ^ unitBits) 1)

/-- The whole part of a finite magnitude (R107's floor). -/
def wholePart (m : Nat) : Nat := unitsOf m / 2 ^ unitBits

end Sys2Proof.Machine
end

