-- ==== Sys2Proof/Machine/NumRef.lean ====
section
/-! DEFINITION. `NUM_REF`, the reference instance of the numerics record (spec 40_numerics.md R100 to R103): sine, cosine and the
power of ten, rounded to the nearest binary64. Each is computed by enclosing the exact real value between two ratios of natural
numbers at a precision of `P` fraction bits; when both ends round to the same pattern, that pattern is the nearest one.
The precisions tried are `ladder`; where none settles the rounding the result is a free value (log entry 4).
The error bounds are written beside the sums they bound, in units of 2^-P or 2^-Q. -/

namespace Sys2Proof.Machine

/-- Magnitude bits of `1.0`, the largest a sine or cosine may have (R101, R102). -/
def oneMag : Nat := 1023 * 2 ^ 52

/-- The precisions tried, in fraction bits: the last two reach below the smallest subnormal. -/
def ladder : List Nat := [160, 320, 1300, 2600]

/-- The magnitude bits both ends of the enclosure `[lo, hi] / den` (in units) round to, if they agree and the lower end is positive. -/
def settled (lo hi : Int) (den : Nat) : Option Nat :=
  let a := roundUnits lo.toNat den
  if 0 < lo && a == roundUnits hi.toNat den then some a else none

/-! ## Pi, by Machin's formula -/

/-- `n` terms of `p/j - p/(k2*(j+2)) + p/(k2^2*(j+4)) - …`, each rounded down. -/
def atanTerms (k2 : Nat) : (n : Nat) → (p : Nat) → (j : Nat) → Int
  | 0, _, _ => 0
  | n + 1, p, j => (p / j : Nat) - atanTerms k2 n (p / k2) (j + 2)

/-- `atan(1/k) * 2^Q`, within `Q/4 + 5` for `k = 5` and `k = 239`. -/
def atanInv (Q k : Nat) : Int := atanTerms (k * k) (Q / 4 + 4) (2 ^ Q / k) 1

/-- `pi * 2^Q`, within `piErr Q`. -/
def piMid (Q : Nat) : Int := 16 * atanInv Q 5 - 4 * atanInv Q 239

def piErr (Q : Nat) : Nat := 20 * (Q / 4 + 5)

def piLo (Q : Nat) : Nat := (piMid Q - piErr Q).toNat

def piHi (Q : Nat) : Nat := (piMid Q + piErr Q).toNat

/-! ## Sine and cosine -/

/-- The magnitude `M` units less a multiple of pi/2: how many quarter turns `n` are taken off, and the rest between `lo` and
`hi`, in units of 2^-P. `piHi` decides `n`, so the rest is never negative. -/
def quarterTurns (P M : Nat) : Nat × Nat × Nat :=
  let Q := P + (Nat.log2 M - unitBits) + 32
  let x := M * 2 ^ (Q + 1)
  let n := x / (piHi Q * 2 ^ unitBits)
  let den := 2 ^ (unitBits + Q + 1)
  (n, (x - n * piHi Q * 2 ^ unitBits) * 2 ^ P / den, (x - n * piLo Q * 2 ^ unitBits) * 2 ^ P / den + 1)

/-- `n` terms of the alternating series whose term `t` is followed by `t * r^2 / (d*(d+1))`, each rounded down. -/
def trigTerms (P r2 : Nat) : (n : Nat) → (t : Nat) → (d : Nat) → Int
  | 0, _, _ => 0
  | n + 1, t, d => t - trigTerms P r2 n (t * r2 / (2 ^ (2 * P) * (d * (d + 1)))) (d + 2)

def trigCount (P : Nat) : Nat := P / 8 + 10

/-- `sin(x + shift * pi/2)` for `x` of magnitude `M` units, as sign and magnitude bits, if precision `P` settles it. A term is short
by less than 2, the rest of the series is less than 1, and neither sine nor cosine moves by more than the width of the rest. -/
def trigAt (M shift P : Nat) : Option (Bool × Nat) :=
  let (n, lo, hi) := quarterTurns P M
  let q := (n + shift) % 4
  let c := if q % 2 == 0 then trigTerms P (lo * lo) (trigCount P) lo 2 else trigTerms P (lo * lo) (trigCount P) (2 ^ P) 1
  let e : Nat := 2 * trigCount P + 2 + (hi - lo)
  (settled ((c - e) * 2 ^ unitBits) ((c + e) * 2 ^ unitBits) (2 ^ P)).map fun m => (decide (2 ≤ q), m)

/-- A pattern of magnitude at most `1.0`, `y` itself where it is one (R101, R102). -/
def unitBall (y : F64) : F64 := packBits (signBit y) (magBits y % (oneMag + 1))

/-- `NUM_REF.fsin` (R100, R101). -/
def fsinRef (x : F64) : F64 :=
  if !isFinite x then qNaN
  else if isZero x then x
  else match ladder.findSome? (trigAt (unitsOf (magBits x)) 0) with
    | some (neg, m) => packBits (neg != signBit x) (min m oneMag)
    | none => unitBall (Config.unsettledSin x)

/-- `NUM_REF.fcos` (R100, R102). -/
def fcosRef (x : F64) : F64 :=
  if !isFinite x then qNaN
  else if isZero x then packBits false oneMag
  else match ladder.findSome? (trigAt (unitsOf (magBits x)) 1) with
    | some (neg, m) => packBits neg (min m oneMag)
    | none => unitBall (Config.unsettledCos x)

/-! ## The power of ten -/

/-- `n` terms of `p/j + p/(k2*(j+2)) + p/(k2^2*(j+4)) + …`, each rounded down. -/
def atanhTerms (k2 : Nat) : (n : Nat) → (p : Nat) → (j : Nat) → Nat
  | 0, _, _ => 0
  | n + 1, p, j => p / j + atanhTerms k2 n (p / k2) (j + 2)

/-- `atanh(1/k) * 2^Q`, short by less than `Q/3 + 5` for `k = 3` and `k = 9`. -/
def atanhInv (Q k : Nat) : Nat := atanhTerms (k * k) (Q / 3 + 4) (2 ^ Q / k) 1

/-- `ln 10 * 2^Q` from below: `ln 10 = 3 ln 2 + ln (5/4) = 6 atanh(1/3) + 2 atanh(1/9)`. -/
def ln10Lo (Q : Nat) : Nat := 6 * atanhInv Q 3 + 2 * atanhInv Q 9

/-- `ln 10 * 2^Q` from above. -/
def ln10Hi (Q : Nat) : Nat := ln10Lo Q + 8 * (Q / 3 + 5)

/-- `n` terms of the exponential series whose term `t` is followed by `t * z / k`, each rounded down. -/
def expTerms (P z : Nat) : (n : Nat) → (t : Nat) → (k : Nat) → Nat
  | 0, _, _ => 0
  | n + 1, t, k => t + expTerms P z n (t * z / (2 ^ P * k)) (k + 1)

def expCount (P : Nat) : Nat := P / 4 + 20

/-- `10^(F units)` for `0 < F < 1`, between two numbers in units of 2^-P. A term is short by less than 3, the rest of the series
is less than 1, and the exponential grows by less than 12 times the width of `z`, `z` being less than 2.4. -/
def exp10Frac (P F : Nat) : Nat × Nat :=
  let Q := P + 16
  let zLo := F * ln10Lo Q / 2 ^ (unitBits + 16)
  let zHi := F * ln10Hi Q / 2 ^ (unitBits + 16) + 1
  let e := expTerms P zLo (expCount P) (2 ^ P) 1
  (e, e + 3 * expCount P + 2 + 12 * (zHi - zLo))

/-- `10^(i + F units)` in magnitude bits, if precision `P` settles it. -/
def exp10At (i : Int) (F P : Nat) : Option Nat :=
  let (lo, hi) := exp10Frac P F
  let up := 2 ^ unitBits * 10 ^ i.toNat
  settled (lo * up : Nat) (hi * up : Nat) (2 ^ P * 10 ^ (-i).toNat)

/-- `10^i` for an integer `i`, rounded from the exact ratio. -/
def exp10Int (i : Int) : Nat := roundUnits (2 ^ unitBits * 10 ^ i.toNat) (10 ^ (-i).toNat)

/-- `floor x` of a finite pattern. -/
def floorOf (x : F64) : Int := valueOf x / (2 ^ unitBits : Nat)

/-- `x - floor x` of a finite pattern, in units. -/
def fracOf (x : F64) : Nat := (valueOf x % (2 ^ unitBits : Nat)).toNat

/-- `NUM_REF.fexp10` (R100, R103). From 400 on every power overflows, and from -400 down it rounds to `+0.0`. -/
def fexp10Ref (x : F64) : F64 :=
  if isNaN x then qNaN
  else if !isFinite x || 400 * 2 ^ unitBits ≤ unitsOf (magBits x) then (if signBit x then posZero else posInf)
  else if fracOf x == 0 then packBits false (exp10Int (floorOf x))
  else match ladder.findSome? (exp10At (floorOf x) (fracOf x)) with
    | some m => packBits false m
    | none => packBits false (magBits (Config.unsettledExp10 x) % (infMag + 1))

/-- `NUM_REF` (R100). -/
def numRef : Num := { fsin := fsinRef, fcos := fcosRef, fexp10 := fexp10Ref }

end Sys2Proof.Machine
end

