-- ==== Sys2Proof/Machine/Params.lean ====
section
/-! DEFINITION. The constants of spec 40_numerics.md R104 and the default configuration of 00_scope.md R9. -/

namespace Sys2Proof.Machine

def twoPi : F64 := 0x401921FB54442D18#64

def one : F64 := 0x3FF0000000000000#64

def two : F64 := 0x4000000000000000#64

def negTwo : F64 := 0xC000000000000000#64

def forty : F64 := 0x4044000000000000#64

/-- The block that is modelled: every parameter of R9 at its default. Log entry 3. -/
def config : Config where
  tSmooth := 0x3FA999999999999A#64
  cutoffReset := 0x408F400000000000#64
  qReset := 0x3FE69FBE76C8B439#64
  gainReset := posZero
  typeReset := .lowPass
  cntW := 32
  num := numRef
  bpf := .constantPeak
  latMax := Config.unstatedLatMax

end Sys2Proof.Machine
end

