-- ==== Sys2Proof/Machine/State.lean ====
section
/-! DEFINITION. The state of one block (spec 10_state.md R20 to R31), its ports between two clock edges (20_memory.md R51, R55),
the host's command sequence (R50, R67), the model's outcomes (60_exceptions.md R192) and the state after reset (R35, R210). -/

namespace Sys2Proof.Machine

/-- The coefficient group (R29): five values, or none of them, as one option in `State`. -/
structure Coef where
  b0 : F64
  b1 : F64
  b2 : F64
  a1 : F64
  a2 : F64
  deriving DecidableEq, Repr

/-- The delay registers (R30). -/
structure Delay where
  x1 : F64
  x2 : F64
  y1 : F64
  y2 : F64
  deriving DecidableEq, Repr

/-- The registers of `parameter_smoothing_ramp_gen` (R31, 44_smoothing_ramp_gen.md R170). The two counters have the width `CNT_W`, which is
a parameter (R9, R108), so they are numbers kept below `2 ^ CNT_W` (`SmootherOk` of Safety.lean). -/
structure Smoother where
  cur : F64
  tgt : F64
  step : F64
  rem : Nat
  len : Nat
  deriving DecidableEq, Repr

/-- The model's fault, the one reason of R192. -/
inductive Fault where
  /-- Raised by `strictExec` and `strictStep` (Machine/Strict.lean) for PROCESS while the coefficient group is none
  (42_process_sample.md R146, 60_exceptions.md R192). The hardware goes on with unspecified data, and so does `exec`: SAFE. -/
  | processBeforeRate
  deriving DecidableEq, Repr

/-- The model's refusals, the two reasons of R192 and the package's own. -/
inductive Refusal where
  /-- An instruction of the table with no meaning in `exec` yet; no arm raises it. SAFE. -/
  | notModelled (mnemonic : String)
  /-- Raised by a word with `op` 6 or 7 (30_encoding.md R78 a). The hardware ignores the word, so this is SAFE. -/
  | reservedOpcode
  /-- Raised by a word with `op` 4 that spells no type code (30_encoding.md R78 b, c). The hardware ignores the word: SAFE. -/
  | reservedTypeCode
  deriving DecidableEq, Repr

/-- A command accepted and not completed (R55), with the edges counted since its acceptance (R220). -/
structure InFlight where
  word : CmdWord
  age : Nat
  deriving DecidableEq, Repr

/-- What the handshake holds between two edges (R51, R55): the command in flight, and the response beat that is offered
(`rsp_valid` with `rsp_data`). -/
structure Port where
  inFlight : Option InFlight
  rsp : Option F64
  deriving DecidableEq, Repr

/-- What the host does next (R50, R51, R80). -/
inductive HostAct where
  /-- `RESET`: `rst` is 1 at one rising edge (R80, R210). -/
  | reset
  /-- A command word is presented until it is accepted (R55). -/
  | command (w : CmdWord)
  /-- The response beat on offer is taken (`rsp_ready`, R55). -/
  | take
  deriving DecidableEq, Repr

/-- The host's side: its sequence still to come, and the response values it has taken, in order (R67). -/
structure HostSide where
  acts : List HostAct
  taken : List F64
  deriving DecidableEq, Repr

/-- The block: the twenty registers of R20 (`rate` to `sm`, and `fault`), its ports, and the model's own fields. `none` is the
spec's own "holds no value" (R23). -/
structure State where
  rate : Option F64
  ftype : FilterType
  cutHz : F64
  q : F64
  gainDb : F64
  coef : Option Coef
  delay : Delay
  sm : Smoother
  fault : Bool
  port : Port
  /-- The model's own: the host's input and what it has seen. Log entry 7. -/
  host : HostSide
  /-- The model's own: the first refusal of the run (R78, R192). Log entry 12. -/
  refusal : Option Refusal
  /-- The model's own: which free value comes next. Log entry 13. -/
  free : Nat
  deriving DecidableEq, Repr

/-- The outcomes of a step (R192). -/
abbrev Result := Host.Outcome State Fault Refusal

/-- The state after reset of a block with configuration `c` (R35). -/
def State.resetWith (c : Config) : State where
  rate := none
  ftype := c.typeReset
  cutHz := c.cutoffReset
  q := c.qReset
  gainDb := c.gainReset
  coef := none
  delay := { x1 := posZero, x2 := posZero, y1 := posZero, y2 := posZero }
  sm := { cur := c.cutoffReset, tgt := c.cutoffReset, step := posZero, rem := 0, len := 1 }
  fault := false
  port := { inFlight := none, rsp := none }
  host := { acts := [], taken := [] }
  refusal := none
  free := 0

/-- The state after reset (R35, R211) of the block with the default parameters. -/
def State.reset : State := State.resetWith config

end Sys2Proof.Machine
end

