-- ==== Sys2Proof/Machine/Operands.lean ====
section
/-! DEFINITION. Operands (spec 30_encoding.md R73, R74, R76). A format F operand is the 64 bits as they stand, with no conversion,
so it needs no operation; a format T operand names a filter type. -/

namespace Sys2Proof.Machine

/-- The type code of a filter type (R76). -/
def typeCode : FilterType → BitVec 3
  | .lowPass => 0#3
  | .highPass => 1#3
  | .bandPass => 2#3
  | .notch => 3#3
  | .lowShelf => 4#3
  | .highShelf => 5#3

/-- The filter type a type code names, none for the reserved codes 6 and 7 (R76). -/
def typeOfCode (sel : BitVec 3) : Option FilterType :=
  if sel = 0#3 then some .lowPass
  else if sel = 1#3 then some .highPass
  else if sel = 2#3 then some .bandPass
  else if sel = 3#3 then some .notch
  else if sel = 4#3 then some .lowShelf
  else if sel = 5#3 then some .highShelf
  else none

/-- The shelf types, the two that read `gainDb` (R28, R156). -/
def isShelf : FilterType → Bool
  | .lowPass => false
  | .highPass => false
  | .bandPass => false
  | .notch => false
  | .lowShelf => true
  | .highShelf => true

end Sys2Proof.Machine
end

