-- ==== Sys2Proof/Machine/CoefEngine.lean ====
section
/-! DEFINITION. `iir_coefficient_engine`: the coefficient derivation (spec 43_coefficient_engine.md R150 to R159), every formula in
the order of evaluation its rule prints. -/

namespace Sys2Proof.Machine

/-- What `common()` returns and the raw formulas read (R151). -/
structure CommonTerms where
  sn : F64
  cs : F64
  alpha : F64
  deriving DecidableEq, Repr

/-- The raw coefficients, before division by `a0` (R13). -/
structure RawCoef where
  b0 : F64
  b1 : F64
  b2 : F64
  a0 : F64
  a1 : F64
  a2 : F64
  deriving DecidableEq, Repr

/-- What `shelf_common()` returns (R156). -/
structure ShelfTerms where
  a : F64
  ap1 : F64
  am1 : F64
  beta : F64
  am1c : F64
  ap1c : F64
  deriving DecidableEq, Repr

/-- `omega`: multiply first, then divide (R151). -/
def omegaOf (cutHz rate : F64) : F64 := fdiv (fmul twoPi cutHz) rate

/-- `common()` (R151). -/
def commonTerms (n : Num) (rate cutHz q : F64) : CommonTerms :=
  let w := omegaOf cutHz rate
  let sn := n.fsin w
  { sn := sn, cs := n.fcos w, alpha := fdiv sn (fmul two q) }

/-- A numerator over the denominator `den4` of the four non-shelf types (R152 to R155). -/
def overDen4 (k : CommonTerms) (b0 b1 b2 : F64) : RawCoef :=
  { b0 := b0, b1 := b1, b2 := b2, a0 := fadd one k.alpha, a1 := fmul negTwo k.cs, a2 := fsub one k.alpha }

/-- R152. -/
def rawLowPass (k : CommonTerms) : RawCoef :=
  let t := fsub one k.cs
  overDen4 k (fdiv t two) t (fdiv t two)

/-- R153. -/
def rawHighPass (k : CommonTerms) : RawCoef :=
  let t := fadd one k.cs
  overDen4 k (fdiv t two) (fneg t) (fdiv t two)

/-- R154. -/
def rawBandPass (v : BpfVariant) (k : CommonTerms) : RawCoef :=
  match v with
  | .constantPeak => overDen4 k k.alpha posZero (fneg k.alpha)
  | .constantSkirt => overDen4 k (fdiv k.sn two) posZero (fneg (fdiv k.sn two))

/-- R155. -/
def rawNotch (k : CommonTerms) : RawCoef := overDen4 k one (fmul negTwo k.cs) one

/-- `shelf_common()` (R156). -/
def shelfTerms (n : Num) (gainDb : F64) (k : CommonTerms) : ShelfTerms :=
  let a := n.fexp10 (fdiv gainDb forty)
  let ap1 := fadd a one
  let am1 := fsub a one
  { a := a, ap1 := ap1, am1 := am1, beta := fmul (fmul two (fsqrt a)) k.alpha,
    am1c := fmul am1 k.cs, ap1c := fmul ap1 k.cs }

/-- R157. -/
def rawLowShelf (h : ShelfTerms) : RawCoef where
  b0 := fmul h.a (fadd (fsub h.ap1 h.am1c) h.beta)
  b1 := fmul (fmul two h.a) (fsub h.am1 h.ap1c)
  b2 := fmul h.a (fsub (fsub h.ap1 h.am1c) h.beta)
  a0 := fadd (fadd h.ap1 h.am1c) h.beta
  a1 := fmul negTwo (fadd h.am1 h.ap1c)
  a2 := fsub (fadd h.ap1 h.am1c) h.beta

/-- R158. -/
def rawHighShelf (h : ShelfTerms) : RawCoef where
  b0 := fmul h.a (fadd (fadd h.ap1 h.am1c) h.beta)
  b1 := fmul (fmul negTwo h.a) (fadd h.am1 h.ap1c)
  b2 := fmul h.a (fsub (fadd h.ap1 h.am1c) h.beta)
  a0 := fadd (fsub h.ap1 h.am1c) h.beta
  a1 := fmul two (fsub h.am1 h.ap1c)
  a2 := fsub (fsub h.ap1 h.am1c) h.beta

/-- `raw()` (R150); `gainDb` and `fexp10` are reached by the shelf types alone (R156). -/
def rawCoef (c : Config) (t : FilterType) (gainDb : F64) (k : CommonTerms) : RawCoef :=
  match t with
  | .lowPass => rawLowPass k
  | .highPass => rawHighPass k
  | .bandPass => rawBandPass c.bpf k
  | .notch => rawNotch k
  | .lowShelf => rawLowShelf (shelfTerms c.num gainDb k)
  | .highShelf => rawHighShelf (shelfTerms c.num gainDb k)

/-- Normalisation: five divisions by raw `a0`, which is not stored (R159). -/
def divideByA0 (r : RawCoef) : Coef where
  b0 := fdiv r.b0 r.a0
  b1 := fdiv r.b1 r.a0
  b2 := fdiv r.b2 r.a0
  a1 := fdiv r.a1 r.a0
  a2 := fdiv r.a2 r.a0

/-- The coefficients as a function of the five parameter registers and the configuration (R150, R160). -/
def coefOf (c : Config) (rate cutHz q gainDb : F64) (t : FilterType) : Coef :=
  divideByA0 (rawCoef c t gainDb (commonTerms c.num rate cutHz q))

/-- What `derive()` writes: nothing is computed while `rate` is none (R150). -/
def derivedCoef (c : Config) (s : State) : Option Coef :=
  s.rate.map fun r => coefOf c r s.cutHz s.q s.gainDb s.ftype

end Sys2Proof.Machine
end

