-- ==== Sys2Proof/Machine/Smoother.lean ====
section
/-! DEFINITION. `parameter_smoothing_ramp_gen`: ramp length (spec 40_numerics.md R107) and the smoother's three transitions
(44_smoothing_ramp_gen.md R170 to R173). -/

namespace Sys2Proof.Machine

/-- The largest counter value, `2^32 - 1` at the default width (R107). -/
def maxCount (c : Config) : Nat := 2 ^ c.cntW - 1

/-- `ramp_len(r)` (R107): the floor of smoothing time by rate, at least 1, at most the largest counter value. A finite product is
at least that value exactly when its floor is, so the rule's second comparison is a minimum here. -/
def rampLen (c : Config) (r : F64) : Nat :=
  let t := fmul c.tSmooth r
  if !fge t one then 1
  else if isInf t then maxCount c
  else min (wholePart (magBits t)) (maxCount c)

/-- The per-step increment from `cur` to `tgt` over `n` steps (R171, R173). -/
def stepOver (cur tgt : F64) (n : Nat) : F64 := fdiv (fsub tgt cur) (u2f n)

/-- "set target" (R171). -/
def Smoother.setTarget (h : F64) (m : Smoother) : Smoother :=
  { m with tgt := h, step := stepOver m.cur h m.len, rem := m.len }

/-- "advance" (R172), for a moving smoother: the last step lands on the target itself. -/
def Smoother.advance (m : Smoother) : Smoother :=
  let rem := m.rem - 1
  { m with rem := rem, cur := if rem = 0 then m.tgt else fadd m.cur m.step }

/-- "re-clock" (R173): a ramp in flight is re-planned over the new length. -/
def Smoother.reclock (c : Config) (r : F64) (m : Smoother) : Smoother :=
  let n := rampLen c r
  if m.rem = 0 then { m with len := n }
  else { m with len := n, step := stepOver m.cur m.tgt n, rem := n }

end Sys2Proof.Machine
end

