-- ==== Sys2Proof/Machine/Ops.lean ====
section
/-! DEFINITION. The named operations every meaning is made of: writing a register, `derive()`, responding, the fault and refusal
outcomes, reset. The block has no memory (spec 20_memory.md R56), so there is no memory operation; it takes no exception and
returns from none (60_exceptions.md R190, R195), so the one shared way to leave the normal course is `faultOutcome` or
`refuseOutcome`, the model's outcomes of R192. -/

namespace Sys2Proof.Machine

/-! ## Register writes (10_state.md R24 to R31) -/

def State.writeRate (r : F64) (s : State) : State := { s with rate := some r }

def State.writeType (t : FilterType) (s : State) : State := { s with ftype := t }

def State.writeCutHz (h : F64) (s : State) : State := { s with cutHz := h }

def State.writeQ (v : F64) (s : State) : State := { s with q := v }

def State.writeGain (g : F64) (s : State) : State := { s with gainDb := g }

def State.writeCoef (k : Option Coef) (s : State) : State := { s with coef := k }

def State.writeDelay (d : Delay) (s : State) : State := { s with delay := d }

def State.writeSm (m : Smoother) (s : State) : State := { s with sm := m }

/-- `derive()` (R150): writes the coefficient group and nothing else. -/
def State.derive (c : Config) (s : State) : State := s.writeCoef (derivedCoef c s)

/-! ## The response port (20_memory.md R54, R55) -/

/-- `respond(v)`: one beat is offered (R12, R54). -/
def State.respond (v : F64) (s : State) : State := { s with port := { s.port with rsp := some v } }

/-- The beat on offer, if any, is delivered to the host (R55). -/
def State.deliver (s : State) : State :=
  match s.port.rsp with
  | none => s
  | some v => { s with port := { s.port with rsp := none }, host := { s.host with taken := s.host.taken ++ [v] } }

/-- The command in flight, if any, is replaced (R55). -/
def State.setInFlight (f : Option InFlight) (s : State) : State := { s with port := { s.port with inFlight := f } }

/-- The host's sequence still to come. -/
def State.setActs (as : List HostAct) (s : State) : State := { s with host := { s.host with acts := as } }

/-! ## The model's outcomes and marks (60_exceptions.md R192) -/

/-- The step's outcome is a fault. -/
def faultOutcome (f : Fault) : Result := .fault f

/-- The step's outcome is a refusal. -/
def refuseOutcome (r : Refusal) : Result := .refused r

/-- The `fault` bit is set; only reset clears it (R192). -/
def State.setFault (s : State) : State := { s with fault := true }

/-- The run is marked with its first refusal (R78, R192). -/
def State.markRefusal (r : Refusal) (s : State) : State := { s with refusal := s.refusal.or (some r) }

/-- The next free value is used up. -/
def State.drawFree (s : State) : State := { s with free := s.free + 1 }

/-! ## Reset (70_reset_and_hazards.md R210) -/

/-- One edge with `rst = 1`: every register and both ports take their reset values, so a command in flight and a response not
delivered are dropped. What is not the block's stays: the host's side, the mark on the run (log entry 12), the counter of free
values. -/
def State.resetBlock (c : Config) (s : State) : State :=
  { State.resetWith c with host := s.host, refusal := s.refusal, free := s.free }

end Sys2Proof.Machine
end

