-- ==== Sys2Proof/Machine/Process.lean ====
section
/-! DEFINITION. PROCESS, the per-sample update (spec 42_process_sample.md R140 to R147). -/

namespace Sys2Proof.Machine

/-- Step 1 (R141): a moving smoother advances, `cutHz` follows it and the coefficients are derived; at rest nothing is done. -/
def smoothStep (c : Config) (s : State) : State :=
  if s.sm.rem = 0 then s
  else ((s.writeSm s.sm.advance).writeCutHz s.sm.advance.cur).derive c

/-- Step 2 (R142): five rounded products, combined from left to right. -/
def outputOf (k : Coef) (d : Delay) (u : F64) : F64 :=
  fsub (fsub (fadd (fadd (fmul k.b0 u) (fmul k.b1 d.x1)) (fmul k.b2 d.x2)) (fmul k.a1 d.y1)) (fmul k.a2 d.y2)

/-- Step 3 (R143). -/
def shiftIn (u out : F64) (d : Delay) : Delay := { x1 := u, x2 := d.x1, y1 := out, y2 := d.y1 }

/-- Steps 3 and 4 with a given output (R143, R54). -/
def finishSample (u out : F64) (s : State) : State := (s.writeDelay (shiftIn u out s.delay)).respond out

/-- `PROCESS u` with no coefficients after step 1 (R146): the hardware goes on with an unspecified output, in the response and in
`y1`, and the `fault` bit is set. The output is a FREE VALUE (log entry 13), the same in two blocks whose
counters agree (log entry 24); the outcome a model reports for it is in Machine/Strict.lean (log entry 1). -/
def finishUnspecified (u : F64) (s : State) : State :=
  (finishSample u (Config.unspecifiedSample s.free) s).setFault.drawFree

/-- `PROCESS u` (R140): it goes on from every state. -/
def processOp (c : Config) (u : F64) (s : State) : State :=
  let s1 := smoothStep c s
  match s1.coef with
  | some k => finishSample u (outputOf k s1.delay u) s1
  | none => finishUnspecified u s1

/-- PROCESS. -/
def execProcess (u : F64) (s : State) : Result := .next (processOp config u s)

end Sys2Proof.Machine
end

