-- ==== Sys2Proof/Machine/Reserved.lean ====
section
/-! DEFINITION. The four reserved rows of the table: the model's outcome is a refusal (spec 30_encoding.md R78,
60_exceptions.md R192). What the hardware does with such a word, which is nothing, is in Machine/Ports.lean. -/

namespace Sys2Proof.Machine

/-- RESERVED_TYPE_6 (R77 c). -/
def execReservedType6 (_ : State) : Result := refuseOutcome .reservedTypeCode

/-- RESERVED_TYPE_7 (R77 c). -/
def execReservedType7 (_ : State) : Result := refuseOutcome .reservedTypeCode

/-- RESERVED_OP_6 (R77 a); the operand bits are ignored. -/
def execReservedOp6 (_ : F64) (_ : State) : Result := refuseOutcome .reservedOpcode

/-- RESERVED_OP_7 (R77 a); the operand bits are ignored. -/
def execReservedOp7 (_ : F64) (_ : State) : Result := refuseOutcome .reservedOpcode

end Sys2Proof.Machine
end

