-- ==== Sys2Proof/Machine/Setters.lean ====
section
/-! DEFINITION. The five parameter commands (spec 41_parameter_commands.md R120 to R127). Each is one function of the
configuration, the operand and the state; the meaning in `exec` is that function at the default configuration. -/

namespace Sys2Proof.Machine

/-- `SETRATE r` (R122). -/
def setRateOp (c : Config) (r : F64) (s : State) : State :=
  ((s.writeRate r).writeSm (s.sm.reclock c r)).derive c

/-- `SETCUT h` (R123): the target only, no derivation. -/
def setCutOp (h : F64) (s : State) : State := s.writeSm (s.sm.setTarget h)

/-- `SETQ v` (R124). -/
def setQOp (c : Config) (v : F64) (s : State) : State := (s.writeQ v).derive c

/-- `SETGAIN g` (R125). -/
def setGainOp (c : Config) (g : F64) (s : State) : State := (s.writeGain g).derive c

/-- `SETTYPE t` (R126). -/
def setTypeOp (c : Config) (t : FilterType) (s : State) : State := (s.writeType t).derive c

/-- SETTYPE with a type code as operand: `sel` above 5 is refused before anything is written (R126, R78). -/
def setTypeCode (c : Config) (sel : BitVec 3) (s : State) : Result :=
  match typeOfCode sel with
  | none => refuseOutcome .reservedTypeCode
  | some t => .next (setTypeOp c t s)

/-- SETRATE. -/
def execSetRate (r : F64) (s : State) : Result := .next (setRateOp config r s)

/-- SETCUT. -/
def execSetCut (h : F64) (s : State) : Result := .next (setCutOp h s)

/-- SETQ. -/
def execSetQ (v : F64) (s : State) : Result := .next (setQOp config v s)

/-- SETGAIN. -/
def execSetGain (g : F64) (s : State) : Result := .next (setGainOp config g s)

/-- SETTYPE. -/
def execSetType (sel : BitVec 3) (s : State) : Result := setTypeCode config sel s

end Sys2Proof.Machine
end

