-- ==== Sys2Proof/Machine/Dispatch.lean ====
section
/-! DEFINITION. One arm per constructor of `Instr`, each one call of the instruction's meaning. -/

namespace Sys2Proof.Machine

def exec (i : Instr) (s : State) : Host.Outcome State Fault Refusal :=
  match i with
  | .setRate r => Sys2Proof.Machine.execSetRate r s
  | .setCut h => Sys2Proof.Machine.execSetCut h s
  | .setQ v => Sys2Proof.Machine.execSetQ v s
  | .setGain g => Sys2Proof.Machine.execSetGain g s
  | .setType sel => Sys2Proof.Machine.execSetType sel s
  | .process u => Sys2Proof.Machine.execProcess u s
  | .reservedType6 => Sys2Proof.Machine.execReservedType6 s
  | .reservedType7 => Sys2Proof.Machine.execReservedType7 s
  | .reservedOp6 d => Sys2Proof.Machine.execReservedOp6 d s
  | .reservedOp7 d => Sys2Proof.Machine.execReservedOp7 d s

end Sys2Proof.Machine
end

