-- ==== Sys2Proof/Machine/Fetch.lean ====
section
/-! DEFINITION. How the next command comes to run at the command level: there is no fetch from memory, the host's sequence is the
program (spec 10_state.md R21, 20_memory.md R50, R53, R67). Machine/Step.lean only calls this. -/

namespace Sys2Proof.Machine

/-- The refusal a rejected word is answered with (30_encoding.md R78). -/
def refusalOf : Reject → Refusal
  | .reservedTypeCode => .reservedTypeCode

/-- What a command does to a state: `exec`, the same for another configuration (Machine/Configured.lean), or the strict reading of it
(Machine/Strict.lean). -/
abbrev Meaning := Instr → State → Result

/-- A command word is given its meaning, or refused by name (R78, R192). -/
def runWordBy (run : Meaning) (w : CmdWord) (s : State) : Result :=
  match decodeWord w with
  | .ok i => run i s
  | .error r => refuseOutcome (refusalOf r)

/-- A command word is executed. -/
def runWord (w : CmdWord) (s : State) : Result := runWordBy exec w s

/-- A command is accepted: it leaves the host's sequence, and a response still on offer has been delivered before (R55). -/
def acceptFrom (as : List HostAct) (s : State) : State := (s.setActs as).deliver

/-- The next step of the block: the command in flight if there is one, else the host's next act; with none the block does nothing
(60_exceptions.md R200). -/
def nextAct (c : Config) (run : Meaning) (s : State) : Result :=
  match s.port.inFlight with
  | some f => runWordBy run f.word (s.setInFlight none).deliver
  | none =>
    match s.host.acts with
    | [] => .next s
    | .reset :: as => .next ((s.setActs as).resetBlock c)
    | .take :: as => .next (s.setActs as).deliver
    | .command w :: as => runWordBy run w (acceptFrom as s)

/-- A command word is put where the next step takes its command from: at the head of the host's sequence, with nothing in flight
before it. `nbits` low bits of `v` count, bits 66:0 of them are the word (R70). -/
def placeWord (s : State) (nbits v : Nat) : State :=
  (s.setActs (.command (BitVec.ofNat 67 (v % 2 ^ nbits)) :: s.host.acts)).setInFlight none

end Sys2Proof.Machine
end

