-- ==== Sys2Proof/Machine/Step.lean ====
section
/-! DEFINITION. One step of the block at the command level (spec 20_memory.md R50, R52): "execute the next command of the host's
sequence". -/

namespace Sys2Proof.Machine

def step (s : State) : Host.Outcome State Fault Refusal := nextAct config exec s

def State.withFetchWord (s : State) (nbits w : Nat) : State := placeWord s nbits w

end Sys2Proof.Machine
end

