-- ==== Sys2Proof/Machine/Channels.lean ====
section
/-! DEFINITION. Several channels: one block for each, with nothing in common (spec 20_memory.md R65, 60_exceptions.md R199). Their free
values alone are related, which is the model's choice: log entry 24. -/

namespace Sys2Proof.Machine

/-- A block's next outcome: one that has stopped stays stopped. -/
def stepOutcome (r : Result) : Result :=
  match r with
  | .next s => step s
  | .fault f => .fault f
  | .refused x => .refused x

/-- Block number `k` takes a step. Each block has an outcome of its own, so one that stops stops no other; a number with no block
changes nothing. -/
def stepChannel (k : Nat) (blocks : List Result) : List Result := blocks.modify k stepOutcome

end Sys2Proof.Machine
end

