-- ==== Sys2Proof/Machine/Flags.lean ====
section
/-! DEFINITION. The block has no condition codes and no arithmetic flags (spec 10_state.md R32, 40_numerics.md R98). Its status
outputs and handshake outputs are functions of the state (R32; 20_memory.md R51, R55). -/

namespace Sys2Proof.Machine

/-- `st_at_rest` (R32, R174): a test of the counter, never a comparison of frequencies. -/
def State.stAtRest (s : State) : Bool := s.sm.rem == 0

/-- `st_rate_valid` (R32). -/
def State.stRateValid (s : State) : Bool := s.rate.isSome

/-- `cmd_ready` (R55): 0 with a command in flight or a response outstanding. That it is 1 in every other cycle, the one right after
a reset edge included, is the model's choice: log entry 20. -/
def State.cmdReady (s : State) : Bool := s.port.inFlight.isNone && s.port.rsp.isNone

/-- `rsp_valid` (R51). -/
def State.rspValid (s : State) : Bool := s.port.rsp.isSome

end Sys2Proof.Machine
end

