-- ==== Sys2Proof/Machine/Ports.lean ====
section
/-! DEFINITION. The port level: one rising edge of `clk` (spec 20_memory.md R51, R55; 70_reset_and_hazards.md R210, R220). Here the
hardware's own behaviour is modelled where the command level refuses: a reserved word is accepted and ignored (30_encoding.md R78).
No edge faults or refuses (60_exceptions.md R190). -/

namespace Sys2Proof.Machine

/-- The input pins sampled at a rising edge (R51). -/
structure Pins where
  rst : Bool
  cmdValid : Bool
  cmdOp : BitVec 3
  cmdData : F64
  rspReady : Bool
  deriving DecidableEq, Repr

/-- One rising edge: the pins, and the implementation's choice whether a command in flight completes at it (R220 leaves the number
of cycles to the implementation; log entry 9). -/
structure Edge where
  pins : Pins
  completes : Bool
  deriving DecidableEq, Repr

/-- The word on the command port (R70). -/
def Pins.word (p : Pins) : CmdWord := p.cmdOp ++ p.cmdData

/-- What the hardware makes of a word the model refuses: nothing changes but the model's mark (R78). -/
def ignoreWord (r : Refusal) (s : State) : State := s.markRefusal r

/-- What the hardware makes of a command: its effect, or nothing for a word the model refuses (R78). No meaning used here faults
(60_exceptions.md R190). -/
def absorb (run : Meaning) (i : Instr) (s : State) : State :=
  match run i s with
  | .next t => t
  | .refused r => ignoreWord r s
  | .fault _ => s

/-- A command completes: all its register writes take effect together (R52). That the response beat of a PROCESS is on offer
(`rsp_valid`) from this same edge on, neither earlier nor later, is the model's choice: log entry 23. So is
that a reserved word sets the mark here and not at its acceptance, so that one dropped by a reset edge sets none: log entry 25. -/
def completeWordBy (run : Meaning) (w : CmdWord) (s : State) : State :=
  match decodeWord w with
  | .ok i => absorb run i s
  | .error r => ignoreWord (refusalOf r) s

/-- The command in flight must complete at this edge at the latest: `LAT_MAX` edges have passed since its acceptance (R220). -/
def mustComplete (c : Config) (f : InFlight) : Bool := decide (c.latMax ≤ f.age + 1)

/-- A beat on offer is delivered in a cycle with `rsp_ready` (R55). -/
def takeBeat (ready : Bool) (s : State) : State := if ready then s.deliver else s

/-- One rising edge (R55, R194, R210): reset wins; a command in flight completes or waits; a response on offer is delivered when it is
taken, else held; a command is accepted only when neither stands in its way. Two points are the model's: a beat that is taken in a
cycle with `rst` is delivered before the reset (log entry 19), and a command completes at a later edge than the one that accepts it
(log entry 9). When the block is ready and when a beat is on offer are log entries 20 and 23. -/
def clockEdgeBy (c : Config) (run : Meaning) (e : Edge) (s : State) : State :=
  if e.pins.rst then (takeBeat e.pins.rspReady s).resetBlock c
  else
    match s.port.inFlight with
    | some f =>
      if e.completes || mustComplete c f then completeWordBy run f.word (s.setInFlight none)
      else s.setInFlight (some { f with age := f.age + 1 })
    | none =>
      match s.port.rsp with
      | some _ => takeBeat e.pins.rspReady s
      | none => if e.pins.cmdValid then s.setInFlight (some { word := e.pins.word, age := 0 }) else s

/-- A command of the block with the default parameters completes. -/
def completeWord (w : CmdWord) (s : State) : State := completeWordBy exec w s

/-- One rising edge of the block with the default parameters. -/
def clockEdge (e : Edge) (s : State) : State := clockEdgeBy config exec e s

/-- Rising edges one after another. -/
def clockEdges : List Edge → State → State
  | [], s => s
  | e :: es, s => clockEdges es (clockEdge e s)

end Sys2Proof.Machine
end

