-- ==== Sys2Proof/Machine/Configured.lean ====
section
/-! DEFINITION. The block built with other parameters (spec 00_scope.md R9, 10_state.md R36). `exec`, `step` and `clockEdge` are these at
the default configuration (`execWith_config` and its companions in Laws/Exec.lean). -/

namespace Sys2Proof.Machine

/-- The meaning of an instruction in a block with configuration `c`. -/
def execWith (c : Config) (i : Instr) (s : State) : Result :=
  match i with
  | .setRate r => .next (setRateOp c r s)
  | .setCut h => .next (setCutOp h s)
  | .setQ v => .next (setQOp c v s)
  | .setGain g => .next (setGainOp c g s)
  | .setType sel => setTypeCode c sel s
  | .process u => .next (processOp c u s)
  | .reservedType6 => execReservedType6 s
  | .reservedType7 => execReservedType7 s
  | .reservedOp6 d => execReservedOp6 d s
  | .reservedOp7 d => execReservedOp7 d s

/-- One step of the host's sequence. -/
def stepWith (c : Config) (s : State) : Result := nextAct c (execWith c) s

/-- One rising edge. -/
def clockEdgeWith (c : Config) (e : Edge) (s : State) : State := clockEdgeBy c (execWith c) e s

end Sys2Proof.Machine
end

