-- ==== Sys2Proof/Machine/Strict.lean ====
section
/-! DEFINITION. The outcomes "that only the model has" (spec 60_exceptions.md R192, 42_process_sample.md R146). `exec` runs a PROCESS
before SETRATE as the hardware does, with a free value; the strict reading ends the run there with `processBeforeRate`. Runs about
which something is claimed are strict runs (Safety.lean). Log entry 1. -/

namespace Sys2Proof.Machine

/-- The guard of R140: a PROCESS that has no coefficients after its step 1. -/
def lacksCoef (c : Config) (i : Instr) (s : State) : Bool :=
  match i with
  | .setRate _ => false
  | .setCut _ => false
  | .setQ _ => false
  | .setGain _ => false
  | .setType _ => false
  | .process _ => (smoothStep c s).coef.isNone
  | .reservedType6 => false
  | .reservedType7 => false
  | .reservedOp6 _ => false
  | .reservedOp7 _ => false

/-- A meaning with the guard before it. -/
def guarded (c : Config) (run : Meaning) (i : Instr) (s : State) : Result :=
  if lacksCoef c i s then faultOutcome .processBeforeRate else run i s

/-- What R192 says a model returns for an instruction. -/
def strictExec (i : Instr) (s : State) : Result := guarded config exec i s

/-- What R192 says a step of the model returns. -/
def strictStep (s : State) : Result := nextAct config strictExec s

end Sys2Proof.Machine
end

