-- ==== Sys2Proof/Safety.lean ====
section
/-! DEFINITION. The terms claims are stated in: what a run is and when it is safe (spec 20_memory.md R67, 60_exceptions.md R192), the
invariants (10_state.md R33, R34), the laws of NUM (40_numerics.md R101 to R103), the caller's contract (70_reset_and_hazards.md R213),
and nearest rounding (40_numerics.md R91). -/

namespace Sys2Proof.Machine

/-! ## Runs (R67) -/

/-- The two status outputs as they stand after a command. -/
structure Status where
  atRest : Bool
  rateValid : Bool
  deriving DecidableEq, Repr

def State.status (s : State) : Status := { atRest := s.stAtRest, rateValid := s.stRateValid }

/-- The responses of a run so far, in order, the one on offer last. -/
def State.responses (s : State) : List F64 := s.host.taken ++ s.port.rsp.toList

/-- R67: the sequence is done, its last command has completed and its response beat has been delivered. -/
def State.ended (s : State) : Prop := s.host.acts = [] ∧ s.port.inFlight = none ∧ s.port.rsp = none

/-- The end of a run: the end state, and the observation, which is the response values in order and the status outputs after each
command (R67). -/
structure RunEnd where
  final : State
  responses : List F64
  statuses : List Status
  deriving DecidableEq, Repr

/-- What a command adds in front of the rest of a run. -/
def RunEnd.cons (t : State) (e : RunEnd) : RunEnd :=
  { final := e.final, responses := t.port.rsp.toList ++ e.responses, statuses := t.status :: e.statuses }

/-- A run (R67): the commands one after another, each one's response delivered before the next. A fault or a refusal is no end of a
run about which something is claimed (R192). -/
def runCommands : List CmdWord → State → Host.Outcome RunEnd Fault Refusal
  | [], s => .next { final := s, responses := [], statuses := [] }
  | w :: ws, s =>
    match runWordBy strictExec w s with
    | .next t =>
      match runCommands ws t.deliver with
      | .next e => .next (e.cons t)
      | .fault f => .fault f
      | .refused r => .refused r
    | .fault f => .fault f
    | .refused r => .refused r

/-- `n` steps with R192's outcomes, up to the first fault or refusal. -/
def strictRun : Nat → State → Result
  | 0, s => .next s
  | n + 1, s =>
    match strictStep s with
    | .next t => strictRun n t
    | .fault f => .fault f
    | .refused r => .refused r

/-- `n` steps from `s` end a run about which something may be claimed: no fault and no refusal on the way, none marked (R67, R192). -/
def SafeRun (n : Nat) (s : State) : Prop :=
  ∃ t, strictRun n s = .next t ∧ t.ended ∧ t.fault = false ∧ t.refusal = none

/-- PROCESS for each sample of a list, one after another, with nothing between them. -/
def processAll (c : Config) : List F64 → State → State
  | [], s => s
  | u :: us, s => processAll c us (processOp c u s)

/-- `d` added `k` times to `x`, each addition rounded (44_smoothing_ramp_gen.md R175). -/
def addTimes (d : F64) : Nat → F64 → F64
  | 0, x => x
  | k + 1, x => addTimes d k (fadd x d)

/-! ## Invariants -/

/-- R33, first invariant: the coefficients are those of the parameters in effect, none while `rate` is none (so R34 b too). -/
def Consistent (c : Config) (s : State) : Prop := s.coef = derivedCoef c s

/-- R34 a and c, and the counters' width (R9, R108). -/
def SmootherOk (c : Config) (s : State) : Prop :=
  s.cutHz = s.sm.cur ∧ s.sm.rem ≤ s.sm.len ∧ 1 ≤ s.sm.len ∧ s.sm.len < 2 ^ c.cntW

/-- R55: a command in flight and a response on offer never stand together. -/
def PortOk (s : State) : Prop := s.port.inFlight = none ∨ s.port.rsp = none

/-- The invariant of the block. -/
def Inv (c : Config) (s : State) : Prop := Consistent c s ∧ SmootherOk c s ∧ PortOk s

/-! ## The laws of NUM -/

/-- R101 to R103: what is required of every numerics record. -/
structure NumLawful (n : Num) : Prop where
  sin_nonfinite : ∀ x, isFinite x = false → n.fsin x = qNaN
  sin_zero : ∀ x, isZero x = true → n.fsin x = x
  sin_bound : ∀ x, isFinite x = true → magBits (n.fsin x) ≤ oneMag
  cos_nonfinite : ∀ x, isFinite x = false → n.fcos x = qNaN
  cos_zero : ∀ x, isZero x = true → n.fcos x = one
  cos_bound : ∀ x, isFinite x = true → magBits (n.fcos x) ≤ oneMag
  exp10_nan : ∀ x, isNaN x = true → n.fexp10 x = qNaN
  exp10_posInf : n.fexp10 posInf = posInf
  exp10_negInf : n.fexp10 (fneg posInf) = posZero
  exp10_zero : ∀ x, isZero x = true → n.fexp10 x = one
  exp10_range : ∀ x, isNaN x = false → isNaN (n.fexp10 x) = false ∧ signBit (n.fexp10 x) = false

/-! ## The caller's contract -/

/-- `a > 0` for a pattern that is no NaN. -/
def positive (a : F64) : Bool := !isNaN a && !isZero a && !signBit a

/-- R213: `rate > 0`, `0 < cutoff < rate/2`, `Q > 0`, for the parameters in effect and the target under way. The block checks none of it. -/
def CallerContract (s : State) : Prop :=
  ∃ r, s.rate = some r ∧ isFinite r = true ∧ positive r = true ∧ positive s.q = true ∧
    positive s.cutHz = true ∧ fge s.cutHz (fdiv r two) = false ∧
    positive s.sm.tgt = true ∧ fge s.sm.tgt (fdiv r two) = false

/-! ## Nearest rounding -/

/-- Finite magnitude bits `m` are nearest to `num / den` units among all finite magnitude bits, and even where another is as near
(R91). Distances are compared after multiplication by `den`. -/
def NearestEven (num den m : Nat) : Prop :=
  m < infMag ∧ ∀ m' < infMag,
    ((unitsOf m * den : Int) - num).natAbs ≤ ((unitsOf m' * den : Int) - num).natAbs ∧
    (((unitsOf m * den : Int) - num).natAbs = ((unitsOf m' * den : Int) - num).natAbs → m' ≠ m → m % 2 = 0)

/-- No finite pattern is nearer to the real number `v` than the finite pattern `y` (R100). -/
def NearestReal (v : ℝ) (y : F64) : Prop :=
  isFinite y = true ∧ ∀ z : F64, isFinite z = true →
    |v - (valueOf y : ℝ) / 2 ^ unitBits| ≤ |v - (valueOf z : ℝ) / 2 ^ unitBits|

end Sys2Proof.Machine
end

