-- ==== Sys2Proof/Certificates/Slice0/Obligations.lean ====
section
/-! DEFINITION. The statements for the provers, in the order of spec/: encoding, steps, reset, parameter commands, PROCESS, smoother,
status, coefficient engine, numerics, whole machine. A docstring names the rule a statement formalises. -/

open Sys2Proof Sys2Proof.Machine

/-! ## Encoding (30_encoding.md) -/

/-- R70, R75, R76: words written out from the encoding, one of every row of the table, decode to their instructions. -/
def Obligations.TableWordsDecode : Prop :=
  decodeWord 0x040E5888000000000#67 = .ok (.setRate 0x40E5888000000000#64) ∧
  decodeWord 0x1408F400000000000#67 = .ok (.setCut 0x408F400000000000#64) ∧
  decodeWord 0x23FE69FBE76C8B439#67 = .ok (.setQ 0x3FE69FBE76C8B439#64) ∧
  decodeWord 0x3C018000000000000#67 = .ok (.setGain 0xC018000000000000#64) ∧
  decodeWord 0x40000000000000003#67 = .ok (.setType 3#3) ∧
  decodeWord 0x5BFF0000000000000#67 = .ok (.process 0xBFF0000000000000#64) ∧
  decodeWord 0x40000000000000006#67 = .ok .reservedType6 ∧
  decodeWord 0x40000000000000007#67 = .ok .reservedType7 ∧
  decodeWord 0x63FF0000000000000#67 = .ok (.reservedOp6 0x3FF0000000000000#64) ∧
  decodeWord 0x7FFFFFFFFFFFFFFFF#67 = .ok (.reservedOp7 0xFFFFFFFFFFFFFFFF#64) ∧
  decodeWord 0x44000000000000000#67 = .error .reservedTypeCode

/-- R70 to R77: decoding the word of a well-formed instruction gives it back, with every operand. -/
def Obligations.DecodeOfEncode : Prop :=
  ∀ i : Instr, i.wf = true → decodeWord (encode i) = .ok i

/-- R70 to R77: what a word decodes to is well formed and has that word as its encoding, so each word has one meaning. -/
def Obligations.EncodeOfDecode : Prop :=
  ∀ (w : CmdWord) (i : Instr), decodeWord w = .ok i → i.wf = true ∧ encode i = w

/-- R77: the words that decode to one of the six commands are all but the reserved ones, which are those with `op` 6 or 7 and those
with `op` 4 whose bits 63:3 are not all zero or whose `sel` is 6 or 7. -/
def Obligations.ReservedWordsAreExactlyThese : Prop :=
  ∀ w : CmdWord,
    (∃ i, decodeWord w = .ok i ∧ i.isCommand = true) ↔
      ¬ (w.extractLsb' 64 3 = 6#3 ∨ w.extractLsb' 64 3 = 7#3 ∨
        (w.extractLsb' 64 3 = 4#3 ∧ w.extractLsb' 3 61 ≠ 0#61) ∨
        (w.extractLsb' 64 3 = 4#3 ∧ w.extractLsb' 3 61 = 0#61 ∧ (w.extractLsb' 0 3 = 6#3 ∨ w.extractLsb' 0 3 = 7#3)))

/-- R76: the type codes, in the order of the enumeration; 6 and 7 are reserved. -/
def Obligations.TypeCodesInPrintedOrder : Prop :=
  typeOfCode 0#3 = some .lowPass ∧ typeOfCode 1#3 = some .highPass ∧ typeOfCode 2#3 = some .bandPass ∧
  typeOfCode 3#3 = some .notch ∧ typeOfCode 4#3 = some .lowShelf ∧ typeOfCode 5#3 = some .highShelf ∧
  typeOfCode 6#3 = none ∧ typeOfCode 7#3 = none ∧ ∀ t, typeOfCode (typeCode t) = some t

/-! ## Steps (20_memory.md R50, R53; 60_exceptions.md R192) -/

/-- R50, R53: with nothing in flight, a step at a host sequence that begins with a word that decodes to `i` is `exec i`, on the state
in which the word has left the sequence and a response still on offer has been delivered; with a command in flight, that command
runs. The model's choices: how the sequence stands in the state (log entry 7), and that the delivery comes first (log entry 8, from R55). -/
def Obligations.StepRunsDecodedCommand : Prop :=
  (∀ (s : State) (w : CmdWord) (as : List HostAct) (i : Instr),
    s.port.inFlight = none → s.host.acts = .command w :: as → decodeWord w = .ok i →
      step s = exec i ({ s with host := { s.host with acts := as } } : State).deliver) ∧
  (∀ (s : State) (f : InFlight) (i : Instr),
    s.port.inFlight = some f → decodeWord f.word = .ok i →
      step s = exec i ({ s with port := { s.port with inFlight := none } } : State).deliver)

/-- A word placed where the step takes its command from runs in the very next step. The model's choices: the placing (log entry 7), and that a
response still on offer has been delivered before (log entry 8, from R55). -/
def Obligations.PlacedWordRunsNext : Prop :=
  ∀ (s : State) (v : Nat) (i : Instr), decodeTableWord 72 v = some i →
    step (s.withFetchWord 72 v) = exec i ({ s with port := { s.port with inFlight := none } } : State).deliver

/-- R78: a reserved word is refused by the model, `op` 6 or 7 as a reserved opcode, `op` 4 as a reserved type code; the hardware accepts
it like any word, changes no register and produces no response: the state differs in the model's mark alone. The
model's choices: an earlier mark is kept (log entry 12); the block is ready, so that a word presented is accepted at once, whenever
nothing is in flight or on offer (log entry 20); the edge that accepts it does no more than put it in flight (log entry 9), the mark being
set at completion (log entry 25). -/
def Obligations.ReservedWordsAreRefusedAndIgnored : Prop :=
  ∀ (w : CmdWord) (r : Refusal),
    ((w.extractLsb' 64 3 = 6#3 ∨ w.extractLsb' 64 3 = 7#3) ∧ r = .reservedOpcode ∨
      w.extractLsb' 64 3 = 4#3 ∧ 5 < w.toNat % 2 ^ 64 ∧ r = .reservedTypeCode) →
    ∀ s : State,
      runWord w s = .refused r ∧
      completeWord w s = { s with refusal := (completeWord w s).refusal } ∧
      (s.refusal = none → (completeWord w s).refusal = some r) ∧
      (∀ m, s.refusal = some m → (completeWord w s).refusal = some m) ∧
      (∀ e : Edge, s.port.inFlight = none → s.port.rsp = none → e.pins.rst = false → e.pins.cmdValid = true →
        e.pins.cmdOp ++ e.pins.cmdData = w →
          clockEdge e s = { s with port := { s.port with inFlight := some { word := w, age := 0 } } })

/-- R78, R192: the four reserved rows of the table have no meaning but the refusal, in every state. -/
def Obligations.ReservedRowsStop : Prop :=
  ∀ (s : State) (d : F64),
    exec .reservedType6 s = .refused .reservedTypeCode ∧ exec .reservedType7 s = .refused .reservedTypeCode ∧
    exec (.reservedOp6 d) s = .refused .reservedOpcode ∧ exec (.reservedOp7 d) s = .refused .reservedOpcode

/-- R192: the outcomes are a closed list. A command goes on in every state; the two refusals are the reserved opcodes and the reserved
type codes, and nothing is refused as not modelled. The strict reading (log entry 1) is the same but for the one fault, which is
PROCESS without coefficients after its step 1, and that case always. -/
def Obligations.OutcomesAreTheListedOnes : Prop :=
  ∀ (i : Instr) (s : State),
    ((∃ t, exec i s = .next t ∧ i.isCommand = true) ∨
      (exec i s = .refused .reservedOpcode ∧ ((∃ d, i = .reservedOp6 d) ∨ ∃ d, i = .reservedOp7 d)) ∨
      (exec i s = .refused .reservedTypeCode ∧ i.op = 4#3 ∧ i.isCommand = false)) ∧
    ((∃ u, i = .process u) ∧ (smoothStep config s).coef = none → strictExec i s = .fault .processBeforeRate) ∧
    (¬ ((∃ u, i = .process u) ∧ (smoothStep config s).coef = none) → strictExec i s = exec i s)

/-- R200: with no command, no response taking and no reset the block does nothing, at either level. -/
def Obligations.IdleBlockKeepsEverything : Prop :=
  (∀ s : State, s.port.inFlight = none → s.host.acts = [] → step s = .next s) ∧
  (∀ (s : State) (e : Edge), s.port.inFlight = none → e.pins.rst = false → e.pins.cmdValid = false →
    e.pins.rspReady = false → clockEdge e s = s)

/-! ## Reset (10_state.md R35; 70_reset_and_hazards.md R210, R211) -/

/-- R35: the reset value of every register. -/
def Obligations.ResetStateValues : Prop :=
  State.reset.rate = none ∧ State.reset.ftype = .lowPass ∧
  State.reset.cutHz = 0x408F400000000000#64 ∧ State.reset.q = 0x3FE69FBE76C8B439#64 ∧
  State.reset.gainDb = 0x0000000000000000#64 ∧ State.reset.coef = none ∧
  State.reset.delay = { x1 := 0#64, x2 := 0#64, y1 := 0#64, y2 := 0#64 } ∧
  State.reset.sm = { cur := 0x408F400000000000#64, tgt := 0x408F400000000000#64, step := 0#64, rem := 0, len := 1 } ∧
  State.reset.fault = false

/-- R210, R194: an edge with `rst = 1` leads to the reset values whatever the state and the other pins are; a command in flight, a
response on offer and a command presented are dropped; the block can accept afterwards; a second such edge changes nothing more.
The model's choices: its own fields stay (log entries 10, 12), a beat that is taken at that very edge is delivered (log entry 19), the
block is ready right after it (log entry 20). -/
def Obligations.ResetEdgeWinsAndDropsEverything : Prop :=
  ∀ (e : Edge) (s : State), e.pins.rst = true →
    clockEdge e s = { State.reset with
      host := { s.host with taken := s.host.taken ++ if e.pins.rspReady then s.port.rsp.toList else [] },
      refusal := s.refusal, free := s.free } ∧
    (clockEdge e s).cmdReady = true ∧ (clockEdge e s).rspValid = false ∧
    (∀ e' : Edge, e'.pins.rst = true → clockEdge e' (clockEdge e s) = clockEdge e s)

/-- R80, R210, R55, R67 at the command level: the host's RESET gives the reset values and clears the fault bit, the rest of the host's
sequence staying (log entry 10); its taking of a response hands the beat on offer over, after the values taken before, and changes no
register; with no beat on offer it changes nothing but the sequence. -/
def Obligations.HostActsResetAndTake : Prop :=
  ∀ (s : State) (as : List HostAct), s.port.inFlight = none →
    (s.host.acts = .reset :: as →
      step s = .next { State.reset with
        host := { acts := as, taken := s.host.taken }, refusal := s.refusal, free := s.free }) ∧
    (∀ v, s.host.acts = .take :: as → s.port.rsp = some v →
      step s = .next { s with
        port := { s.port with rsp := none }, host := { acts := as, taken := s.host.taken ++ [v] } }) ∧
    (s.host.acts = .take :: as → s.port.rsp = none → step s = .next { s with host := { s.host with acts := as } })

/-! ## Parameter commands (41_parameter_commands.md) -/

/-- R122, R173: SETRATE completes from every state. It stores the rate and the new ramp length, re-plans a ramp in flight from the
present value to the unchanged target over that length, leaves a smoother at rest otherwise alone, derives the coefficients from
the parameters as they stand, and changes nothing else. -/
def Obligations.SetRateResult : Prop :=
  ∀ (r : F64) (s : State),
    (s.sm.rem = 0 → exec (.setRate r) s = .next { s with
      rate := some r, sm := { s.sm with len := rampLen config r },
      coef := some (coefOf config r s.cutHz s.q s.gainDb s.ftype) }) ∧
    (s.sm.rem ≠ 0 → exec (.setRate r) s = .next { s with
      rate := some r,
      sm := { s.sm with
        len := rampLen config r, rem := rampLen config r,
        step := fdiv (fsub s.sm.tgt s.sm.cur) (u2f (rampLen config r)) },
      coef := some (coefOf config r s.cutHz s.q s.gainDb s.ftype) })

/-- R171: SETCUT completes from every state: target, increment and remaining steps are set, the present value and everything else
stays; with at least one step in a ramp the smoother is moving afterwards, whatever the target. -/
def Obligations.SetCutResult : Prop :=
  ∀ (h : F64) (s : State),
    exec (.setCut h) s = .next { s with
      sm := { s.sm with tgt := h, step := fdiv (fsub h s.sm.cur) (u2f s.sm.len), rem := s.sm.len } } ∧
    (1 ≤ s.sm.len → ∃ t, exec (.setCut h) s = .next t ∧ t.sm.rem ≠ 0)

/-- R124, R125, R126: SETQ, SETGAIN and SETTYPE with one of the six codes complete from every state: the operand's bits are stored, the
coefficients are derived (none while `rate` is none), nothing else changes, the delay registers least of all; SETTYPE with code 6
or 7 is refused with nothing written. -/
def Obligations.SetQSetGainSetTypeResults : Prop :=
  ∀ s : State,
    (∀ v, exec (.setQ v) s = .next { s with
      q := v, coef := s.rate.map fun r => coefOf config r s.cutHz v s.gainDb s.ftype }) ∧
    (∀ g, exec (.setGain g) s = .next { s with
      gainDb := g, coef := s.rate.map fun r => coefOf config r s.cutHz s.q g s.ftype }) ∧
    (∀ t, exec (.setType (typeCode t)) s = .next { s with
      ftype := t, coef := s.rate.map fun r => coefOf config r s.cutHz s.q s.gainDb t }) ∧
    exec (.setType 6#3) s = .refused .reservedTypeCode ∧ exec (.setType 7#3) s = .refused .reservedTypeCode

/-- R120, R127: no setter reads or writes the delay registers, and none touches the response port or the fault bit: run on the same
state with other delay registers it gives the same result with those delay registers. -/
def Obligations.SettersIgnoreDelayAndResponse : Prop :=
  ∀ (i : Instr) (s t : State), (∀ u, i ≠ .process u) → exec i s = .next t →
    t.delay = s.delay ∧ t.port = s.port ∧ t.fault = s.fault ∧ t.host = s.host ∧
    ∀ d : Delay, exec i { s with delay := d } = .next { t with delay := d }

/-- R59: SETRATE, SETQ, SETGAIN and SETTYPE repeated with the same operand, with nothing between, leave the state as the first one
left it. -/
def Obligations.RepeatedSetterChangesNothing : Prop :=
  ∀ (i : Instr) (s t : State), (∀ u, i ≠ .process u) → (∀ h, i ≠ .setCut h) →
    exec i s = .next t → exec i t = .next t

/-- R212: a setter issued before a SETRATE gives the same state as the same setter issued after it. -/
def Obligations.SettersCommuteWithSetRate : Prop :=
  ∀ (i : Instr) (r : F64) (s t t' : State), (∀ u, i ≠ .process u) → (∀ x, i ≠ .setRate x) → 1 ≤ s.sm.len →
    exec i s = .next t → exec (.setRate r) t = .next t' →
      ∃ m, exec (.setRate r) s = .next m ∧ exec i m = .next t'

/-- R125: with a type that is no shelf type, SETGAIN changes the stored gain and nothing that can be heard: the coefficients it writes
are the ones already in force. -/
def Obligations.GainUnusedByNonShelfTypes : Prop :=
  ∀ (g : F64) (s : State), Consistent config s → isShelf s.ftype = false →
    exec (.setGain g) s = .next { s with gainDb := g }

/-! ## PROCESS (42_process_sample.md) -/

/-- R142, R143: PROCESS with the smoother at rest completes whenever there are coefficients: the output is the five rounded products
combined from left to right, it is the response, the delay registers shift, and nothing else changes. -/
def Obligations.ProcessAtRestResult : Prop :=
  ∀ (u : F64) (s : State) (k : Coef), s.sm.rem = 0 → s.coef = some k →
    let out := fsub (fsub (fadd (fadd (fmul k.b0 u) (fmul k.b1 s.delay.x1)) (fmul k.b2 s.delay.x2))
      (fmul k.a1 s.delay.y1)) (fmul k.a2 s.delay.y2)
    exec (.process u) s = .next { s with
      delay := { x1 := u, x2 := s.delay.x1, y1 := out, y2 := s.delay.y1 },
      port := { s.port with rsp := some out } }

/-- R140, R141, R172: PROCESS with the smoother moving completes whenever there is a rate: one step of the ramp (the last one lands on the
target itself), the cutoff follows, the coefficients are derived at it, and the output uses them. -/
def Obligations.ProcessMovingResult : Prop :=
  ∀ (u r : F64) (s : State), s.sm.rem ≠ 0 → s.rate = some r →
    let cur := if s.sm.rem = 1 then s.sm.tgt else fadd s.sm.cur s.sm.step
    let k := coefOf config r cur s.q s.gainDb s.ftype
    let out := fsub (fsub (fadd (fadd (fmul k.b0 u) (fmul k.b1 s.delay.x1)) (fmul k.b2 s.delay.x2))
      (fmul k.a1 s.delay.y1)) (fmul k.a2 s.delay.y2)
    exec (.process u) s = .next { s with
      cutHz := cur, sm := { s.sm with cur := cur, rem := s.sm.rem - 1 }, coef := some k,
      delay := { x1 := u, x2 := s.delay.x1, y1 := out, y2 := s.delay.y1 },
      port := { s.port with rsp := some out } }

/-- R146: PROCESS while there is no rate is the model's fault in the strict reading (log entry 1), and with a rate it never is. The
command goes on: step 1 runs as written with the coefficients staying none, one response beat is produced, the shift is made with
that unspecified value, and the fault bit is set, which no edge without `rst` clears. The statement holds whatever the unspecified
value is (log entry 13). -/
def Obligations.ProcessBeforeRate : Prop :=
  ∀ (u : F64) (s : State), Consistent config s →
    (s.rate ≠ none → strictExec (.process u) s = exec (.process u) s ∧
      ∃ t, exec (.process u) s = .next t ∧ t.fault = s.fault) ∧
    (s.rate = none →
      strictExec (.process u) s = .fault .processBeforeRate ∧
      ∃ (v : F64) (t : State), exec (.process u) s = .next t ∧
        t = { s with
          sm := if s.sm.rem = 0 then s.sm else s.sm.advance,
          cutHz := if s.sm.rem = 0 then s.cutHz else s.sm.advance.cur,
          delay := { x1 := u, x2 := s.delay.x1, y1 := v, y2 := s.delay.y1 },
          port := { s.port with rsp := some v }, fault := true, free := s.free + 1 } ∧
        ∀ es : List Edge, (∀ e ∈ es, e.pins.rst = false) → (clockEdges es t).fault = true)

/-- R147: a NaN in `y1` stays there under every command that has coefficients to work with, and every PROCESS then responds with the
one NaN of arithmetic. -/
def Obligations.NanInY1Sticks : Prop :=
  ∀ (i : Instr) (s t : State), isNaN s.delay.y1 = true → (∀ u, i = .process u → (smoothStep config s).coef ≠ none) →
    exec i s = .next t → isNaN t.delay.y1 = true ∧ ∀ u, i = .process u → t.port.rsp = some qNaN

/-- R145: with cleared delay registers and constant finite coefficients, a unit impulse is answered by exactly `b0`, and the zero after it
by exactly `b1 - a1*b0` as computed, whenever these are not zero and the second is finite. -/
def Obligations.ImpulseAnsweredByB0ThenB1 : Prop :=
  ∀ (s t1 : State) (k : Coef), s.sm.rem = 0 → s.coef = some k →
    s.delay = { x1 := 0#64, x2 := 0#64, y1 := 0#64, y2 := 0#64 } →
    isFinite k.b0 = true → isFinite k.b1 = true → isFinite k.b2 = true → isFinite k.a1 = true → isFinite k.a2 = true →
    isZero k.b0 = false → exec (.process 0x3FF0000000000000#64) s = .next t1 →
      t1.port.rsp = some k.b0 ∧
      ∀ t2, isZero k.b1 = false → isZero (fsub k.b1 (fmul k.a1 k.b0)) = false →
        isFinite (fsub k.b1 (fmul k.a1 k.b0)) = true → exec (.process 0#64) t1 = .next t2 →
          t2.port.rsp = some (fsub k.b1 (fmul k.a1 k.b0))

/-! ## The smoother (44_smoothing_ramp_gen.md) -/

/-- R175, from R171, R172: after SETCUT, and with PROCESS commands only, the present value is the start with the increment added once for
each sample until the last step, which sets it to the target; from then on it stays there at rest. No sample faults, and the
coefficients are always those of the cutoff in effect. For every configuration. -/
def Obligations.RampFollowsItsTrajectory : Prop :=
  ∀ (c : Config) (h : F64) (us : List F64) (s : State), Consistent c s → SmootherOk c s → s.rate ≠ none →
    let t := processAll c us (setCutOp h s)
    Consistent c t ∧ t.cutHz = t.sm.cur ∧ t.fault = s.fault ∧
    (us.length < s.sm.len →
      t.sm.cur = addTimes (fdiv (fsub h s.sm.cur) (u2f s.sm.len)) us.length s.sm.cur ∧
      t.sm.rem = s.sm.len - us.length) ∧
    (s.sm.len ≤ us.length → t.sm.cur = h ∧ t.sm.rem = 0)

/-- R170: the smoother leaves rest only by SETCUT, and returns to rest only by the PROCESS that takes the last step. -/
def Obligations.RestIsLeftBySetCutReachedByLastStep : Prop :=
  ∀ (i : Instr) (s t : State), SmootherOk config s → exec i s = .next t →
    (s.sm.rem = 0 → t.sm.rem ≠ 0 → ∃ h, i = .setCut h) ∧
    (s.sm.rem ≠ 0 → t.sm.rem = 0 → (∃ u, i = .process u) ∧ s.sm.rem = 1)

/-- R107: the ramp length is 1 below one step and for NaN, `2^32 - 1` from there on, and between them the floor, exactly; with the examples
of the rule at the default smoothing time. The clauses for counters of a width other than 32, up to the largest value of that width
(R9), are the model's own reading of R107, not the rule: log entry 21. -/
def Obligations.RampLengthIsClampedFloor : Prop :=
  (∀ (c : Config) (r : F64), c.cntW = 32 →
    let t := fmul c.tSmooth r
    (fge t 0x3FF0000000000000#64 = false → rampLen c r = 1) ∧
    (fge t 0x41EFFFFFFFE00000#64 = true → rampLen c r = 4294967295) ∧
    (fge t 0x3FF0000000000000#64 = true → fge t 0x41EFFFFFFFE00000#64 = false →
      1 ≤ rampLen c r ∧ rampLen c r ≤ 4294967294 ∧
      (rampLen c r * 2 ^ 1074 : Int) ≤ valueOf t ∧ valueOf t < (rampLen c r + 1) * 2 ^ 1074)) ∧
  (∀ (c : Config) (r : F64), 1 ≤ c.cntW →
    let t := fmul c.tSmooth r
    1 ≤ rampLen c r ∧ rampLen c r ≤ 2 ^ c.cntW - 1 ∧
    (fge t 0x3FF0000000000000#64 = false → rampLen c r = 1) ∧
    (fge t 0x3FF0000000000000#64 = true → isFinite t = true →
      (rampLen c r * 2 ^ 1074 : Int) ≤ valueOf t ∧
      (valueOf t < (rampLen c r + 1) * 2 ^ 1074 ∨ rampLen c r = 2 ^ c.cntW - 1)) ∧
    (fge t 0x3FF0000000000000#64 = true → isInf t = true → rampLen c r = 2 ^ c.cntW - 1)) ∧
  rampLen config 0x40E5888000000000#64 = 2205 ∧ rampLen config 0x40E7700000000000#64 = 2400 ∧
  rampLen config 0x40F7700000000000#64 = 4800 ∧ rampLen config 0x40BF400000000000#64 = 400 ∧
  rampLen config 0x4059000000000000#64 = 5 ∧ rampLen config 0x4034000000000000#64 = 1 ∧
  rampLen config 0x4033000000000000#64 = 1 ∧ rampLen config 0x0000000000000000#64 = 1 ∧
  rampLen config 0xC0E5888000000000#64 = 1 ∧ rampLen config 0x7FF8000000000000#64 = 1 ∧
  rampLen config 0x7FF0000000000000#64 = 4294967295 ∧ rampLen config 0x42374876E8000000#64 = 4294967295

/-! ## Status and access (10_state.md) -/

/-- R32: the status outputs, after reset and along the commands that move them. -/
def Obligations.StatusOutputsFollowTheState : Prop :=
  (∀ s : State, (s.stAtRest = true ↔ s.sm.rem = 0) ∧ (s.stRateValid = true ↔ s.rate ≠ none)) ∧
  State.reset.stAtRest = true ∧ State.reset.stRateValid = false ∧
  (∀ (h : F64) (s t : State), 1 ≤ s.sm.len → exec (.setCut h) s = .next t → t.stAtRest = false) ∧
  (∀ (u : F64) (s t : State), s.sm.rem = 1 → exec (.process u) s = .next t → t.stAtRest = true) ∧
  (∀ (r : F64) (s t : State), exec (.setRate r) s = .next t → t.stRateValid = true) ∧
  (∀ (i : Instr) (s t : State), s.stRateValid = true → exec i s = .next t → t.stRateValid = true)

/-- R24 to R31, R37: which command may change which register; the fault bit is changed by a PROCESS without coefficients alone (R146). -/
def Obligations.RegistersChangeOnlyByTheirCommands : Prop :=
  ∀ (i : Instr) (s t : State), exec i s = .next t →
    (t.rate ≠ s.rate → ∃ r, i = .setRate r) ∧
    (t.ftype ≠ s.ftype → ∃ sel, i = .setType sel) ∧
    (t.cutHz ≠ s.cutHz → ∃ u, i = .process u) ∧
    (t.q ≠ s.q → ∃ v, i = .setQ v) ∧
    (t.gainDb ≠ s.gainDb → ∃ g, i = .setGain g) ∧
    (t.coef ≠ s.coef → ∀ h, i ≠ .setCut h) ∧
    (t.delay ≠ s.delay → ∃ u, i = .process u) ∧
    (t.sm.cur ≠ s.sm.cur → ∃ u, i = .process u) ∧
    (t.sm.tgt ≠ s.sm.tgt → ∃ h, i = .setCut h) ∧
    (t.sm.step ≠ s.sm.step → (∃ h, i = .setCut h) ∨ ∃ r, i = .setRate r) ∧
    (t.sm.len ≠ s.sm.len → ∃ r, i = .setRate r) ∧
    (t.sm.rem ≠ s.sm.rem → (∃ h, i = .setCut h) ∨ (∃ r, i = .setRate r) ∨ ∃ u, i = .process u) ∧
    (t.fault ≠ s.fault → (∃ u, i = .process u) ∧ (smoothStep config s).coef = none)

/-! ## The coefficient engine (43_coefficient_engine.md) -/

/-- R150, R160: `derive()` overwrites the coefficient fields and nothing else, reads none of them, keeps no history, and leaves them none
while `rate` is none. For every configuration. -/
def Obligations.DeriveIsPure : Prop :=
  ∀ (c : Config) (s : State) (k : Option Coef),
    ({ s with coef := k } : State).derive c = s.derive c ∧
    (s.derive c).derive c = s.derive c ∧
    s.derive c = { s with coef := (s.derive c).coef } ∧
    (s.rate = none → (s.derive c).coef = none) ∧
    (∀ t : State, t.rate = s.rate → t.cutHz = s.cutHz → t.q = s.q → t.gainDb = s.gainDb → t.ftype = s.ftype →
      (t.derive c).coef = (s.derive c).coef)

/-- R155: the notch's raw coefficients and, after normalisation, `b1` and `a1` with the same bits. -/
def Obligations.NotchB1EqualsA1 : Prop :=
  ∀ (c : Config) (rate cutHz q gainDb : F64),
    let w := fdiv (fmul 0x401921FB54442D18#64 cutHz) rate
    let alpha := fdiv (c.num.fsin w) (fmul 0x4000000000000000#64 q)
    let m := fmul 0xC000000000000000#64 (c.num.fcos w)
    let ra0 := fadd 0x3FF0000000000000#64 alpha
    coefOf c rate cutHz q gainDb .notch = {
      b0 := fdiv 0x3FF0000000000000#64 ra0, b1 := fdiv m ra0, b2 := fdiv 0x3FF0000000000000#64 ra0,
      a1 := fdiv m ra0, a2 := fdiv (fsub 0x3FF0000000000000#64 alpha) ra0 } ∧
    (coefOf c rate cutHz q gainDb .notch).b1 = (coefOf c rate cutHz q gainDb .notch).a1

/-- R151 to R154, R159: the coefficients of the low-pass, the high-pass and the band-pass in both variants, primitive by primitive, for
every configuration. -/
def Obligations.NonShelfCoefficientFormulas : Prop :=
  ∀ (c : Config) (rate cutHz q gainDb : F64),
    let w := fdiv (fmul 0x401921FB54442D18#64 cutHz) rate
    let sn := c.num.fsin w
    let cs := c.num.fcos w
    let alpha := fdiv sn (fmul 0x4000000000000000#64 q)
    let ra0 := fadd 0x3FF0000000000000#64 alpha
    let mk := fun b0 b1 b2 : F64 => ({
      b0 := fdiv b0 ra0, b1 := fdiv b1 ra0, b2 := fdiv b2 ra0,
      a1 := fdiv (fmul 0xC000000000000000#64 cs) ra0, a2 := fdiv (fsub 0x3FF0000000000000#64 alpha) ra0 } : Coef)
    coefOf c rate cutHz q gainDb .lowPass =
      mk (fdiv (fsub 0x3FF0000000000000#64 cs) 0x4000000000000000#64) (fsub 0x3FF0000000000000#64 cs)
        (fdiv (fsub 0x3FF0000000000000#64 cs) 0x4000000000000000#64) ∧
    coefOf c rate cutHz q gainDb .highPass =
      mk (fdiv (fadd 0x3FF0000000000000#64 cs) 0x4000000000000000#64) (fneg (fadd 0x3FF0000000000000#64 cs))
        (fdiv (fadd 0x3FF0000000000000#64 cs) 0x4000000000000000#64) ∧
    (c.bpf = .constantPeak → coefOf c rate cutHz q gainDb .bandPass = mk alpha 0x0000000000000000#64 (fneg alpha)) ∧
    (c.bpf = .constantSkirt → coefOf c rate cutHz q gainDb .bandPass =
      mk (fdiv sn 0x4000000000000000#64) 0x0000000000000000#64 (fneg (fdiv sn 0x4000000000000000#64)))

/-- R156, R157, R158, with R151 and R159: the coefficients of the two shelf types, primitive by primitive, for every configuration. -/
def Obligations.ShelfCoefficientFormulas : Prop :=
  ∀ (c : Config) (rate cutHz q gainDb : F64),
    let w := fdiv (fmul 0x401921FB54442D18#64 cutHz) rate
    let cs := c.num.fcos w
    let alpha := fdiv (c.num.fsin w) (fmul 0x4000000000000000#64 q)
    let a := c.num.fexp10 (fdiv gainDb 0x4044000000000000#64)
    let ap1 := fadd a 0x3FF0000000000000#64
    let am1 := fsub a 0x3FF0000000000000#64
    let beta := fmul (fmul 0x4000000000000000#64 (fsqrt a)) alpha
    let am1c := fmul am1 cs
    let ap1c := fmul ap1 cs
    (let ra0 := fadd (fadd ap1 am1c) beta;
      coefOf c rate cutHz q gainDb .lowShelf = {
        b0 := fdiv (fmul a (fadd (fsub ap1 am1c) beta)) ra0,
        b1 := fdiv (fmul (fmul 0x4000000000000000#64 a) (fsub am1 ap1c)) ra0,
        b2 := fdiv (fmul a (fsub (fsub ap1 am1c) beta)) ra0,
        a1 := fdiv (fmul 0xC000000000000000#64 (fadd am1 ap1c)) ra0,
        a2 := fdiv (fsub (fadd ap1 am1c) beta) ra0 }) ∧
    (let ra0 := fadd (fsub ap1 am1c) beta;
      coefOf c rate cutHz q gainDb .highShelf = {
        b0 := fdiv (fmul a (fadd (fadd ap1 am1c) beta)) ra0,
        b1 := fdiv (fmul (fmul 0xC000000000000000#64 a) (fadd am1 ap1c)) ra0,
        b2 := fdiv (fmul a (fsub (fadd ap1 am1c) beta)) ra0,
        a1 := fdiv (fmul 0x4000000000000000#64 (fsub am1 ap1c)) ra0,
        a2 := fdiv (fsub (fsub ap1 am1c) beta) ra0 })

/-- R153: the high-pass numerator sums to zero at DC in binary64 too, for every cosine of magnitude at most 1. -/
def Obligations.HighPassNumeratorSumsToZero : Prop :=
  ∀ k : CommonTerms, magBits k.cs ≤ oneMag →
    fadd (fadd (rawHighPass k).b0 (rawHighPass k).b1) (rawHighPass k).b2 = 0#64

/-- R161, first row: a shelf at 0 dB is the unity-gain filter bit for bit, for every lawful numerics record, where raw `a0` is finite and
not zero and the cosine is not zero. -/
def Obligations.ShelfAtZeroGainIsUnity : Prop :=
  ∀ (c : Config) (rate cutHz q gainDb : F64) (t : FilterType),
    NumLawful c.num → isZero gainDb = true → isShelf t = true →
    isFinite (omegaOf cutHz rate) = true → isZero (c.num.fcos (omegaOf cutHz rate)) = false →
    isFinite (rawCoef c t gainDb (commonTerms c.num rate cutHz q)).a0 = true →
    isZero (rawCoef c t gainDb (commonTerms c.num rate cutHz q)).a0 = false →
      let k := coefOf c rate cutHz q gainDb t
      k.b0 = 0x3FF0000000000000#64 ∧ k.b1 = k.a1 ∧ k.b2 = k.a2

/-- R161, rows of NaN results: a NaN `q`, a zero rate with a finite cutoff that is not zero, and a NaN gain with a shelf type each give the
one NaN in all five coefficients; computed, no fault. -/
def Obligations.PathologicalParametersGiveNanCoefficients : Prop :=
  ∀ (c : Config) (rate cutHz q gainDb : F64) (t : FilterType), NumLawful c.num →
    (isNaN q = true ∨ (isZero rate = true ∧ isFinite cutHz = true ∧ isZero cutHz = false) ∨
      (isNaN gainDb = true ∧ isShelf t = true)) →
      coefOf c rate cutHz q gainDb t = {
        b0 := 0x7FF8000000000000#64, b1 := 0x7FF8000000000000#64, b2 := 0x7FF8000000000000#64,
        a1 := 0x7FF8000000000000#64, a2 := 0x7FF8000000000000#64 }

/-! ## Numerics (40_numerics.md) -/

/-- R91's rounding: a ratio is rounded to the nearest finite magnitude, the even one of two, and to infinity exactly from
`2^1024 - 2^970` on (in units of 2^-1074). -/
def Obligations.RoundingIsNearestEven : Prop :=
  ∀ num den : Nat, 0 < den →
    (roundUnits num den = infMag ↔ (2 ^ 2098 - 2 ^ 2044) * den ≤ num) ∧
    (num < (2 ^ 2098 - 2 ^ 2044) * den → NearestEven num den (roundUnits num den))

/-- R91: the sum. -/
def Obligations.AddIsCorrectlyRounded : Prop :=
  ∀ a b : F64,
    (isNaN a = true ∨ isNaN b = true → fadd a b = 0x7FF8000000000000#64) ∧
    (isInf a = true → isInf b = true → signBit a ≠ signBit b → fadd a b = 0x7FF8000000000000#64) ∧
    (isInf a = true → isFinite b = true ∨ b = a → fadd a b = a) ∧
    (isInf b = true → isFinite a = true ∨ a = b → fadd a b = b) ∧
    (isFinite a = true → isFinite b = true → valueOf a + valueOf b = 0 →
      fadd a b = if signBit a = true ∧ signBit b = true then 0x8000000000000000#64 else 0#64) ∧
    (isFinite a = true → isFinite b = true → valueOf a + valueOf b ≠ 0 →
      signBit (fadd a b) = decide (valueOf a + valueOf b < 0) ∧
      (2 ^ 2098 - 2 ^ 2044 ≤ (valueOf a + valueOf b).natAbs → isInf (fadd a b) = true) ∧
      ((valueOf a + valueOf b).natAbs < 2 ^ 2098 - 2 ^ 2044 →
        NearestEven (valueOf a + valueOf b).natAbs 1 (magBits (fadd a b))))

/-- R93: the product; its exact value in units is the product of the operands' units over `2^1074`. -/
def Obligations.MulIsCorrectlyRounded : Prop :=
  ∀ a b : F64,
    (isNaN a = true ∨ isNaN b = true → fmul a b = 0x7FF8000000000000#64) ∧
    (isZero a = true → isInf b = true → fmul a b = 0x7FF8000000000000#64 ∧ fmul b a = 0x7FF8000000000000#64) ∧
    (isInf a = true → isNaN b = false → isZero b = false →
      isInf (fmul a b) = true ∧ signBit (fmul a b) = (signBit a != signBit b) ∧
      isInf (fmul b a) = true ∧ signBit (fmul b a) = (signBit a != signBit b)) ∧
    (isFinite a = true → isFinite b = true →
      signBit (fmul a b) = (signBit a != signBit b) ∧
      ((2 ^ 2098 - 2 ^ 2044) * 2 ^ 1074 ≤ (valueOf a * valueOf b).natAbs → isInf (fmul a b) = true) ∧
      ((valueOf a * valueOf b).natAbs < (2 ^ 2098 - 2 ^ 2044) * 2 ^ 1074 →
        NearestEven (valueOf a * valueOf b).natAbs (2 ^ 1074) (magBits (fmul a b))))

/-- R94: the quotient, in the cases the rule lists (an infinity over a finite value is not among them: log entry 6). -/
def Obligations.DivIsCorrectlyRounded : Prop :=
  ∀ a b : F64,
    (isNaN a = true ∨ isNaN b = true → fdiv a b = 0x7FF8000000000000#64) ∧
    (isZero a = true → isZero b = true → fdiv a b = 0x7FF8000000000000#64) ∧
    (isInf a = true → isInf b = true → fdiv a b = 0x7FF8000000000000#64) ∧
    (isFinite a = true → isZero a = false → isZero b = true →
      isInf (fdiv a b) = true ∧ signBit (fdiv a b) = (signBit a != signBit b)) ∧
    (isFinite a = true → isInf b = true →
      isZero (fdiv a b) = true ∧ signBit (fdiv a b) = (signBit a != signBit b)) ∧
    (isFinite a = true → isFinite b = true → isZero b = false →
      signBit (fdiv a b) = (signBit a != signBit b) ∧
      (isZero a = true → isZero (fdiv a b) = true) ∧
      ((2 ^ 2098 - 2 ^ 2044) * (valueOf b).natAbs ≤ (valueOf a).natAbs * 2 ^ 1074 → isInf (fdiv a b) = true) ∧
      ((valueOf a).natAbs * 2 ^ 1074 < (2 ^ 2098 - 2 ^ 2044) * (valueOf b).natAbs →
        NearestEven ((valueOf a).natAbs * 2 ^ 1074) (valueOf b).natAbs (magBits (fdiv a b))))

/-- R95: the square root, nearest among the finite patterns; it is never halfway between two of them. -/
def Obligations.SqrtIsCorrectlyRounded : Prop :=
  fsqrt 0#64 = 0#64 ∧ fsqrt 0x8000000000000000#64 = 0x8000000000000000#64 ∧
  fsqrt 0x7FF0000000000000#64 = 0x7FF0000000000000#64 ∧
  (∀ a : F64, isNaN a = true ∨ (signBit a = true ∧ isZero a = false) → fsqrt a = 0x7FF8000000000000#64) ∧
  (∀ a : F64, isFinite a = true → signBit a = false → isZero a = false →
    signBit (fsqrt a) = false ∧ isFinite (fsqrt a) = true ∧
    ∀ z : F64, isFinite z = true →
      |Real.sqrt ((valueOf a : ℝ) / 2 ^ 1074) - (valueOf (fsqrt a) : ℝ) / 2 ^ 1074| ≤
        |Real.sqrt ((valueOf a : ℝ) / 2 ^ 1074) - (valueOf z : ℝ) / 2 ^ 1074| ∧
      (|Real.sqrt ((valueOf a : ℝ) / 2 ^ 1074) - (valueOf (fsqrt a) : ℝ) / 2 ^ 1074| =
        |Real.sqrt ((valueOf a : ℝ) / 2 ^ 1074) - (valueOf z : ℝ) / 2 ^ 1074| → z = fsqrt a))

/-- R92: subtraction is addition of the negated operand, with the three particular cases of the rule. -/
def Obligations.SubtractionIsAdditionOfTheNegation : Prop :=
  (∀ a b : F64, isNaN a = false → isNaN b = false → fsub a b = fadd a (fneg b)) ∧
  (∀ a b : F64, isNaN a = true ∨ isNaN b = true → fsub a b = 0x7FF8000000000000#64) ∧
  (∀ x : F64, isFinite x = true → fsub x x = 0#64) ∧
  fsub 0x7FF0000000000000#64 0x7FF0000000000000#64 = 0x7FF8000000000000#64 ∧
  (∀ x : F64, isNaN x = false → fsub x 0#64 = x)

/-- R105: `fge` compares the real values, with the two zeros equal and the infinities at the ends; false for a NaN. -/
def Obligations.CompareIsTheOrderOfValues : Prop :=
  ∀ a b : F64,
    (isNaN a = true ∨ isNaN b = true → fge a b = false) ∧
    (isFinite a = true → isFinite b = true → (fge a b = true ↔ valueOf b ≤ valueOf a)) ∧
    (isNaN b = false → fge 0x7FF0000000000000#64 b = true) ∧
    (isNaN a = false → fge a 0xFFF0000000000000#64 = true) ∧
    (isFinite b = true → fge 0xFFF0000000000000#64 b = false) ∧
    (isFinite a = true → fge a 0x7FF0000000000000#64 = false) ∧
    fge 0xFFF0000000000000#64 0x7FF0000000000000#64 = false

/-- R106: `u2f` has exactly the value of the counter, of 32 bits and of every width up to 53. -/
def Obligations.CounterConversionIsExact : Prop :=
  ∀ n : Nat, n < 2 ^ 53 → isFinite (u2f n) = true ∧ signBit (u2f n) = false ∧ valueOf (u2f n) = n * 2 ^ 1074

/-- R101, R102, R103 for `NUM_REF`, whatever its free values are. -/
def Obligations.NumRefIsLawful : Prop := NumLawful numRef

/-- R100 for the sine and cosine of `NUM_REF`: where a precision of the ladder settles the rounding, no finite pattern is nearer to the
exact real value. Where none settles it the result is a free value (log entry 4), and nothing is stated of it. -/
def Obligations.SineAndCosineRefAreNearest : Prop :=
  ∀ x : F64, isFinite x = true → isZero x = false →
    ((∃ P ∈ ladder, trigAt (unitsOf (magBits x)) 0 P ≠ none) →
      NearestReal (Real.sin ((valueOf x : ℝ) / 2 ^ 1074)) (fsinRef x)) ∧
    ((∃ P ∈ ladder, trigAt (unitsOf (magBits x)) 1 P ≠ none) →
      NearestReal (Real.cos ((valueOf x : ℝ) / 2 ^ 1074)) (fcosRef x))

/-- R100 for the power of ten of `NUM_REF`: where the operand is an integer or a precision of the ladder settles the rounding, and the
result is finite, no finite pattern is nearer to the exact real value. Elsewhere the result is a free value (log entry 4). -/
def Obligations.PowerOfTenRefIsNearest : Prop :=
  ∀ x : F64, isFinite x = true → isFinite (fexp10Ref x) = true →
    (fracOf x = 0 ∨ ∃ P ∈ ladder, exp10At (floorOf x) (fracOf x) P ≠ none) →
      NearestReal ((10 : ℝ) ^ ((valueOf x : ℝ) / 2 ^ 1074)) (fexp10Ref x)

/-! ## The whole machine -/

/-- R33, R34, R35, R55: the invariant holds after reset, for every configuration with counters of at least one bit (their
bound by the width is log entry 21). -/
def Obligations.InvariantHoldsAtReset : Prop :=
  Inv config State.reset ∧ ∀ c : Config, 1 ≤ c.cntW → Inv c (State.resetWith c)

/-- R33, R34: every step from every state that meets the invariant keeps it: the coefficients are those of the parameters in effect, none
exactly while `rate` is none; `cutHz` is the smoother's present value; the counters keep their order and their width; a command in
flight and a response never stand together. The same in a block with any other parameters (R9), with the bound of the counters of
log entry 21. -/
def Obligations.StepKeepsInvariant : Prop :=
  (∀ s t : State, Inv config s → step s = .next t → Inv config t ∧ (t.coef = none ↔ t.rate = none)) ∧
  (∀ (c : Config) (s t : State), 1 ≤ c.cntW → Inv c s → stepWith c s = .next t →
    Inv c t ∧ (t.coef = none ↔ t.rate = none))

/-- R33, R34, R55 at the port level: every clock edge keeps the invariant, what the hardware does with reserved words and with a PROCESS
before SETRATE included. The same in a block with any other parameters (R9), with the bound of the counters of log
entry 21. -/
def Obligations.ClockEdgeKeepsInvariant : Prop :=
  (∀ (e : Edge) (s : State), Inv config s → Inv config (clockEdge e s)) ∧
  (∀ (c : Config) (e : Edge) (s : State), 1 ≤ c.cntW → Inv c s → Inv c (clockEdgeWith c e s))

/-- R54: a PROCESS adds exactly one response, the output that enters `y1`, after the responses before it; a setter adds none. The step delivers
a response still on offer before the command: log entry 8, from R55. -/
def Obligations.OneResponsePerProcessInOrder : Prop :=
  ∀ (s t : State) (w : CmdWord) (as : List HostAct) (i : Instr),
    s.port.inFlight = none → s.host.acts = .command w :: as → decodeWord w = .ok i → step s = .next t →
      ((∃ u, i = .process u) → t.responses = s.responses ++ [t.delay.y1]) ∧
      ((∀ u, i ≠ .process u) → t.responses = s.responses)

/-- R67: a run of commands on a block with nothing outstanding is what the steps of the host's sequence give when the sequence is those
commands and a last taking of the response: the same end state, the responses in order behind those taken before, one pair of status
outputs for each command, and the run has ended. The model's choices: the sequence in the state (log entry 7), and that the step of the
next command delivers the response of the last (log entry 8). -/
def Obligations.RunOfCommandsIsTheStepsOfItsSequence : Prop :=
  ∀ (ws : List CmdWord) (s : State) (e : RunEnd), s.port.inFlight = none → s.port.rsp = none →
    runCommands ws s = .next e →
      e.statuses.length = ws.length ∧
      ∃ t, strictRun (ws.length + 1) { s with host := { s.host with acts := ws.map .command ++ [.take] } } = .next t ∧
        t.ended ∧ t = { e.final with host := { acts := [], taken := s.host.taken ++ e.responses } }

/-- R55: the handshake. A command is accepted, and its word sampled, exactly when it is valid, the block is ready and `rst` is 0; a beat on
offer is held until it is taken; while a command is in flight or a beat is on offer no other command is accepted. The model's choices:
the block is ready in every other cycle (log entry 20), and the edge that accepts a command does nothing more (log entry 9). -/
def Obligations.HandshakeAcceptsOneCommandAtATime : Prop :=
  ∀ (e : Edge) (s : State), e.pins.rst = false →
    (s.cmdReady = true ↔ s.port.inFlight = none ∧ s.port.rsp = none) ∧
    (s.cmdReady = true → e.pins.cmdValid = true →
      clockEdge e s = { s with port := { s.port with
        inFlight := some { word := e.pins.cmdOp ++ e.pins.cmdData, age := 0 } } }) ∧
    (s.cmdReady = true → e.pins.cmdValid = false → clockEdge e s = s) ∧
    (∀ v, s.port.inFlight = none → s.port.rsp = some v → e.pins.rspReady = false → clockEdge e s = s) ∧
    (∀ v, s.port.inFlight = none → s.port.rsp = some v → e.pins.rspReady = true →
      clockEdge e s = { s with
        port := { s.port with rsp := none }, host := { s.host with taken := s.host.taken ++ [v] } }) ∧
    (∀ f g, s.port.inFlight = some f → (clockEdge e s).port.inFlight = some g → g.word = f.word)

/-- R52: a command in flight takes effect all at once. At an edge without `rst` either no register and no status output changes (the edge
is only counted), or the command completes with all its writes; it completes whenever the implementation chooses to (log entry 9). The
model's choice: the response beat is among what appears at that edge (log entry 23). -/
def Obligations.CommandTakesEffectAllAtOnce : Prop :=
  ∀ (e : Edge) (s : State) (f : InFlight), s.port.inFlight = some f → e.pins.rst = false →
    (clockEdge e s = { s with port := { s.port with inFlight := some { f with age := f.age + 1 } } } ∧
      (clockEdge e s).stAtRest = s.stAtRest ∧ (clockEdge e s).stRateValid = s.stRateValid ∧ e.completes = false) ∨
    clockEdge e s = completeWord f.word { s with port := { s.port with inFlight := none } }

/-- R50, R52, R55: the port level does what the command level says. A command presented to a ready block and completed after any number of
waiting edges the implementation may take leaves exactly the state the command level gives, when it gives one. The model's
choices: a block with nothing in flight or on offer is ready, so the first edge accepts at once (log entry 20); at least one edge
follows acceptance, and at most `LAT_MAX` (log entry 9); the response is on offer from the last edge on (log entry 23). -/
def Obligations.PortLevelRefinesCommandLevel : Prop :=
  ∀ (s t : State) (first last : Edge) (waits : List Edge),
    s.port.inFlight = none → s.port.rsp = none →
    first.pins.rst = false → first.pins.cmdValid = true →
    (∀ e ∈ waits, e.pins.rst = false ∧ e.completes = false) → (waits = [] ∨ waits.length < config.latMax) →
    last.pins.rst = false → last.completes = true →
    runWord (first.pins.cmdOp ++ first.pins.cmdData) s = .next t →
      clockEdge last (clockEdges waits (clockEdge first s)) = t

/-- R220: an accepted command completes within `LAT_MAX` edges of its acceptance (one edge at least), whatever the pins but `rst` do and
whatever the word is. `LAT_MAX` is an opaque constant (log entry 9); that the response
beat is on offer from that edge on is log entry 23. -/
def Obligations.AcceptedCommandCompletesWithinLatMax : Prop :=
  ∀ (s : State) (f : InFlight) (es : List Edge),
    s.port.inFlight = some f → f.age = 0 → (∀ e ∈ es, e.pins.rst = false) → es.length = max 1 config.latMax →
      ∃ k, 0 < k ∧ k ≤ es.length ∧
        clockEdges (es.take k) s = completeWord f.word { s with port := { s.port with inFlight := none } }

/-- R192: no edge without `rst` clears the fault bit. -/
def Obligations.FaultBitClearedOnlyByReset : Prop :=
  ∀ (es : List Edge) (s : State), (∀ e ∈ es, e.pins.rst = false) → s.fault = true → (clockEdges es s).fault = true

/-- R65, R199: a step of one channel is a step of its block and leaves every other channel as it was, whatever the outcome of either; a
block that has stopped stops no other, and steps of two channels give the same blocks in either order. -/
def Obligations.ChannelsAreIndependent : Prop :=
  ∀ (k j : Nat) (bs : List Result), k ≠ j →
    (stepChannel k bs).length = bs.length ∧ (stepChannel k bs)[j]? = bs[j]? ∧
    (∀ s, bs[k]? = some (.next s) → (stepChannel k bs)[k]? = some (step s)) ∧
    stepChannel j (stepChannel k bs) = stepChannel k (stepChannel j bs)
end

