-- ==== Sys2Proof/Laws/State.lean ====
section
/-! SUPPORT. What each named update of `State` leaves in each field: one lemma for a field and an update, all true by definition. -/

namespace Sys2Proof.Machine

section
variable (s : State)

/-! ### writeRate -/

@[simp] theorem State.writeRate_rate (r : F64) : (s.writeRate r).rate = some r := rfl
@[simp] theorem State.writeRate_ftype (r : F64) : (s.writeRate r).ftype = s.ftype := rfl
@[simp] theorem State.writeRate_cutHz (r : F64) : (s.writeRate r).cutHz = s.cutHz := rfl
@[simp] theorem State.writeRate_q (r : F64) : (s.writeRate r).q = s.q := rfl
@[simp] theorem State.writeRate_gainDb (r : F64) : (s.writeRate r).gainDb = s.gainDb := rfl
@[simp] theorem State.writeRate_coef (r : F64) : (s.writeRate r).coef = s.coef := rfl
@[simp] theorem State.writeRate_delay (r : F64) : (s.writeRate r).delay = s.delay := rfl
@[simp] theorem State.writeRate_sm (r : F64) : (s.writeRate r).sm = s.sm := rfl
@[simp] theorem State.writeRate_fault (r : F64) : (s.writeRate r).fault = s.fault := rfl
@[simp] theorem State.writeRate_port (r : F64) : (s.writeRate r).port = s.port := rfl
@[simp] theorem State.writeRate_host (r : F64) : (s.writeRate r).host = s.host := rfl
@[simp] theorem State.writeRate_refusal (r : F64) : (s.writeRate r).refusal = s.refusal := rfl
@[simp] theorem State.writeRate_free (r : F64) : (s.writeRate r).free = s.free := rfl

/-! ### writeType -/

@[simp] theorem State.writeType_rate (t : FilterType) : (s.writeType t).rate = s.rate := rfl
@[simp] theorem State.writeType_ftype (t : FilterType) : (s.writeType t).ftype = t := rfl
@[simp] theorem State.writeType_cutHz (t : FilterType) : (s.writeType t).cutHz = s.cutHz := rfl
@[simp] theorem State.writeType_q (t : FilterType) : (s.writeType t).q = s.q := rfl
@[simp] theorem State.writeType_gainDb (t : FilterType) : (s.writeType t).gainDb = s.gainDb := rfl
@[simp] theorem State.writeType_coef (t : FilterType) : (s.writeType t).coef = s.coef := rfl
@[simp] theorem State.writeType_delay (t : FilterType) : (s.writeType t).delay = s.delay := rfl
@[simp] theorem State.writeType_sm (t : FilterType) : (s.writeType t).sm = s.sm := rfl
@[simp] theorem State.writeType_fault (t : FilterType) : (s.writeType t).fault = s.fault := rfl
@[simp] theorem State.writeType_port (t : FilterType) : (s.writeType t).port = s.port := rfl
@[simp] theorem State.writeType_host (t : FilterType) : (s.writeType t).host = s.host := rfl
@[simp] theorem State.writeType_refusal (t : FilterType) : (s.writeType t).refusal = s.refusal := rfl
@[simp] theorem State.writeType_free (t : FilterType) : (s.writeType t).free = s.free := rfl

/-! ### writeCutHz -/

@[simp] theorem State.writeCutHz_rate (h : F64) : (s.writeCutHz h).rate = s.rate := rfl
@[simp] theorem State.writeCutHz_ftype (h : F64) : (s.writeCutHz h).ftype = s.ftype := rfl
@[simp] theorem State.writeCutHz_cutHz (h : F64) : (s.writeCutHz h).cutHz = h := rfl
@[simp] theorem State.writeCutHz_q (h : F64) : (s.writeCutHz h).q = s.q := rfl
@[simp] theorem State.writeCutHz_gainDb (h : F64) : (s.writeCutHz h).gainDb = s.gainDb := rfl
@[simp] theorem State.writeCutHz_coef (h : F64) : (s.writeCutHz h).coef = s.coef := rfl
@[simp] theorem State.writeCutHz_delay (h : F64) : (s.writeCutHz h).delay = s.delay := rfl
@[simp] theorem State.writeCutHz_sm (h : F64) : (s.writeCutHz h).sm = s.sm := rfl
@[simp] theorem State.writeCutHz_fault (h : F64) : (s.writeCutHz h).fault = s.fault := rfl
@[simp] theorem State.writeCutHz_port (h : F64) : (s.writeCutHz h).port = s.port := rfl
@[simp] theorem State.writeCutHz_host (h : F64) : (s.writeCutHz h).host = s.host := rfl
@[simp] theorem State.writeCutHz_refusal (h : F64) : (s.writeCutHz h).refusal = s.refusal := rfl
@[simp] theorem State.writeCutHz_free (h : F64) : (s.writeCutHz h).free = s.free := rfl

/-! ### writeQ -/

@[simp] theorem State.writeQ_rate (v : F64) : (s.writeQ v).rate = s.rate := rfl
@[simp] theorem State.writeQ_ftype (v : F64) : (s.writeQ v).ftype = s.ftype := rfl
@[simp] theorem State.writeQ_cutHz (v : F64) : (s.writeQ v).cutHz = s.cutHz := rfl
@[simp] theorem State.writeQ_q (v : F64) : (s.writeQ v).q = v := rfl
@[simp] theorem State.writeQ_gainDb (v : F64) : (s.writeQ v).gainDb = s.gainDb := rfl
@[simp] theorem State.writeQ_coef (v : F64) : (s.writeQ v).coef = s.coef := rfl
@[simp] theorem State.writeQ_delay (v : F64) : (s.writeQ v).delay = s.delay := rfl
@[simp] theorem State.writeQ_sm (v : F64) : (s.writeQ v).sm = s.sm := rfl
@[simp] theorem State.writeQ_fault (v : F64) : (s.writeQ v).fault = s.fault := rfl
@[simp] theorem State.writeQ_port (v : F64) : (s.writeQ v).port = s.port := rfl
@[simp] theorem State.writeQ_host (v : F64) : (s.writeQ v).host = s.host := rfl
@[simp] theorem State.writeQ_refusal (v : F64) : (s.writeQ v).refusal = s.refusal := rfl
@[simp] theorem State.writeQ_free (v : F64) : (s.writeQ v).free = s.free := rfl

/-! ### writeGain -/

@[simp] theorem State.writeGain_rate (g : F64) : (s.writeGain g).rate = s.rate := rfl
@[simp] theorem State.writeGain_ftype (g : F64) : (s.writeGain g).ftype = s.ftype := rfl
@[simp] theorem State.writeGain_cutHz (g : F64) : (s.writeGain g).cutHz = s.cutHz := rfl
@[simp] theorem State.writeGain_q (g : F64) : (s.writeGain g).q = s.q := rfl
@[simp] theorem State.writeGain_gainDb (g : F64) : (s.writeGain g).gainDb = g := rfl
@[simp] theorem State.writeGain_coef (g : F64) : (s.writeGain g).coef = s.coef := rfl
@[simp] theorem State.writeGain_delay (g : F64) : (s.writeGain g).delay = s.delay := rfl
@[simp] theorem State.writeGain_sm (g : F64) : (s.writeGain g).sm = s.sm := rfl
@[simp] theorem State.writeGain_fault (g : F64) : (s.writeGain g).fault = s.fault := rfl
@[simp] theorem State.writeGain_port (g : F64) : (s.writeGain g).port = s.port := rfl
@[simp] theorem State.writeGain_host (g : F64) : (s.writeGain g).host = s.host := rfl
@[simp] theorem State.writeGain_refusal (g : F64) : (s.writeGain g).refusal = s.refusal := rfl
@[simp] theorem State.writeGain_free (g : F64) : (s.writeGain g).free = s.free := rfl

/-! ### writeCoef -/

@[simp] theorem State.writeCoef_rate (k : Option Coef) : (s.writeCoef k).rate = s.rate := rfl
@[simp] theorem State.writeCoef_ftype (k : Option Coef) : (s.writeCoef k).ftype = s.ftype := rfl
@[simp] theorem State.writeCoef_cutHz (k : Option Coef) : (s.writeCoef k).cutHz = s.cutHz := rfl
@[simp] theorem State.writeCoef_q (k : Option Coef) : (s.writeCoef k).q = s.q := rfl
@[simp] theorem State.writeCoef_gainDb (k : Option Coef) : (s.writeCoef k).gainDb = s.gainDb := rfl
@[simp] theorem State.writeCoef_coef (k : Option Coef) : (s.writeCoef k).coef = k := rfl
@[simp] theorem State.writeCoef_delay (k : Option Coef) : (s.writeCoef k).delay = s.delay := rfl
@[simp] theorem State.writeCoef_sm (k : Option Coef) : (s.writeCoef k).sm = s.sm := rfl
@[simp] theorem State.writeCoef_fault (k : Option Coef) : (s.writeCoef k).fault = s.fault := rfl
@[simp] theorem State.writeCoef_port (k : Option Coef) : (s.writeCoef k).port = s.port := rfl
@[simp] theorem State.writeCoef_host (k : Option Coef) : (s.writeCoef k).host = s.host := rfl
@[simp] theorem State.writeCoef_refusal (k : Option Coef) : (s.writeCoef k).refusal = s.refusal := rfl
@[simp] theorem State.writeCoef_free (k : Option Coef) : (s.writeCoef k).free = s.free := rfl

/-! ### writeDelay -/

@[simp] theorem State.writeDelay_rate (d : Delay) : (s.writeDelay d).rate = s.rate := rfl
@[simp] theorem State.writeDelay_ftype (d : Delay) : (s.writeDelay d).ftype = s.ftype := rfl
@[simp] theorem State.writeDelay_cutHz (d : Delay) : (s.writeDelay d).cutHz = s.cutHz := rfl
@[simp] theorem State.writeDelay_q (d : Delay) : (s.writeDelay d).q = s.q := rfl
@[simp] theorem State.writeDelay_gainDb (d : Delay) : (s.writeDelay d).gainDb = s.gainDb := rfl
@[simp] theorem State.writeDelay_coef (d : Delay) : (s.writeDelay d).coef = s.coef := rfl
@[simp] theorem State.writeDelay_delay (d : Delay) : (s.writeDelay d).delay = d := rfl
@[simp] theorem State.writeDelay_sm (d : Delay) : (s.writeDelay d).sm = s.sm := rfl
@[simp] theorem State.writeDelay_fault (d : Delay) : (s.writeDelay d).fault = s.fault := rfl
@[simp] theorem State.writeDelay_port (d : Delay) : (s.writeDelay d).port = s.port := rfl
@[simp] theorem State.writeDelay_host (d : Delay) : (s.writeDelay d).host = s.host := rfl
@[simp] theorem State.writeDelay_refusal (d : Delay) : (s.writeDelay d).refusal = s.refusal := rfl
@[simp] theorem State.writeDelay_free (d : Delay) : (s.writeDelay d).free = s.free := rfl

/-! ### writeSm -/

@[simp] theorem State.writeSm_rate (m : Smoother) : (s.writeSm m).rate = s.rate := rfl
@[simp] theorem State.writeSm_ftype (m : Smoother) : (s.writeSm m).ftype = s.ftype := rfl
@[simp] theorem State.writeSm_cutHz (m : Smoother) : (s.writeSm m).cutHz = s.cutHz := rfl
@[simp] theorem State.writeSm_q (m : Smoother) : (s.writeSm m).q = s.q := rfl
@[simp] theorem State.writeSm_gainDb (m : Smoother) : (s.writeSm m).gainDb = s.gainDb := rfl
@[simp] theorem State.writeSm_coef (m : Smoother) : (s.writeSm m).coef = s.coef := rfl
@[simp] theorem State.writeSm_delay (m : Smoother) : (s.writeSm m).delay = s.delay := rfl
@[simp] theorem State.writeSm_sm (m : Smoother) : (s.writeSm m).sm = m := rfl
@[simp] theorem State.writeSm_fault (m : Smoother) : (s.writeSm m).fault = s.fault := rfl
@[simp] theorem State.writeSm_port (m : Smoother) : (s.writeSm m).port = s.port := rfl
@[simp] theorem State.writeSm_host (m : Smoother) : (s.writeSm m).host = s.host := rfl
@[simp] theorem State.writeSm_refusal (m : Smoother) : (s.writeSm m).refusal = s.refusal := rfl
@[simp] theorem State.writeSm_free (m : Smoother) : (s.writeSm m).free = s.free := rfl

/-! ### respond -/

@[simp] theorem State.respond_rate (v : F64) : (s.respond v).rate = s.rate := rfl
@[simp] theorem State.respond_ftype (v : F64) : (s.respond v).ftype = s.ftype := rfl
@[simp] theorem State.respond_cutHz (v : F64) : (s.respond v).cutHz = s.cutHz := rfl
@[simp] theorem State.respond_q (v : F64) : (s.respond v).q = s.q := rfl
@[simp] theorem State.respond_gainDb (v : F64) : (s.respond v).gainDb = s.gainDb := rfl
@[simp] theorem State.respond_coef (v : F64) : (s.respond v).coef = s.coef := rfl
@[simp] theorem State.respond_delay (v : F64) : (s.respond v).delay = s.delay := rfl
@[simp] theorem State.respond_sm (v : F64) : (s.respond v).sm = s.sm := rfl
@[simp] theorem State.respond_fault (v : F64) : (s.respond v).fault = s.fault := rfl
@[simp] theorem State.respond_port (v : F64) : (s.respond v).port = { s.port with rsp := some v } := rfl
@[simp] theorem State.respond_host (v : F64) : (s.respond v).host = s.host := rfl
@[simp] theorem State.respond_refusal (v : F64) : (s.respond v).refusal = s.refusal := rfl
@[simp] theorem State.respond_free (v : F64) : (s.respond v).free = s.free := rfl

/-! ### setInFlight -/

@[simp] theorem State.setInFlight_rate (f : Option InFlight) : (s.setInFlight f).rate = s.rate := rfl
@[simp] theorem State.setInFlight_ftype (f : Option InFlight) : (s.setInFlight f).ftype = s.ftype := rfl
@[simp] theorem State.setInFlight_cutHz (f : Option InFlight) : (s.setInFlight f).cutHz = s.cutHz := rfl
@[simp] theorem State.setInFlight_q (f : Option InFlight) : (s.setInFlight f).q = s.q := rfl
@[simp] theorem State.setInFlight_gainDb (f : Option InFlight) : (s.setInFlight f).gainDb = s.gainDb := rfl
@[simp] theorem State.setInFlight_coef (f : Option InFlight) : (s.setInFlight f).coef = s.coef := rfl
@[simp] theorem State.setInFlight_delay (f : Option InFlight) : (s.setInFlight f).delay = s.delay := rfl
@[simp] theorem State.setInFlight_sm (f : Option InFlight) : (s.setInFlight f).sm = s.sm := rfl
@[simp] theorem State.setInFlight_fault (f : Option InFlight) : (s.setInFlight f).fault = s.fault := rfl
@[simp] theorem State.setInFlight_port (f : Option InFlight) : (s.setInFlight f).port = { s.port with inFlight := f } := rfl
@[simp] theorem State.setInFlight_host (f : Option InFlight) : (s.setInFlight f).host = s.host := rfl
@[simp] theorem State.setInFlight_refusal (f : Option InFlight) : (s.setInFlight f).refusal = s.refusal := rfl
@[simp] theorem State.setInFlight_free (f : Option InFlight) : (s.setInFlight f).free = s.free := rfl

/-! ### setActs -/

@[simp] theorem State.setActs_rate (as : List HostAct) : (s.setActs as).rate = s.rate := rfl
@[simp] theorem State.setActs_ftype (as : List HostAct) : (s.setActs as).ftype = s.ftype := rfl
@[simp] theorem State.setActs_cutHz (as : List HostAct) : (s.setActs as).cutHz = s.cutHz := rfl
@[simp] theorem State.setActs_q (as : List HostAct) : (s.setActs as).q = s.q := rfl
@[simp] theorem State.setActs_gainDb (as : List HostAct) : (s.setActs as).gainDb = s.gainDb := rfl
@[simp] theorem State.setActs_coef (as : List HostAct) : (s.setActs as).coef = s.coef := rfl
@[simp] theorem State.setActs_delay (as : List HostAct) : (s.setActs as).delay = s.delay := rfl
@[simp] theorem State.setActs_sm (as : List HostAct) : (s.setActs as).sm = s.sm := rfl
@[simp] theorem State.setActs_fault (as : List HostAct) : (s.setActs as).fault = s.fault := rfl
@[simp] theorem State.setActs_port (as : List HostAct) : (s.setActs as).port = s.port := rfl
@[simp] theorem State.setActs_host (as : List HostAct) : (s.setActs as).host = { s.host with acts := as } := rfl
@[simp] theorem State.setActs_refusal (as : List HostAct) : (s.setActs as).refusal = s.refusal := rfl
@[simp] theorem State.setActs_free (as : List HostAct) : (s.setActs as).free = s.free := rfl

/-! ### setFault -/

@[simp] theorem State.setFault_rate : s.setFault.rate = s.rate := rfl
@[simp] theorem State.setFault_ftype : s.setFault.ftype = s.ftype := rfl
@[simp] theorem State.setFault_cutHz : s.setFault.cutHz = s.cutHz := rfl
@[simp] theorem State.setFault_q : s.setFault.q = s.q := rfl
@[simp] theorem State.setFault_gainDb : s.setFault.gainDb = s.gainDb := rfl
@[simp] theorem State.setFault_coef : s.setFault.coef = s.coef := rfl
@[simp] theorem State.setFault_delay : s.setFault.delay = s.delay := rfl
@[simp] theorem State.setFault_sm : s.setFault.sm = s.sm := rfl
@[simp] theorem State.setFault_fault : s.setFault.fault = true := rfl
@[simp] theorem State.setFault_port : s.setFault.port = s.port := rfl
@[simp] theorem State.setFault_host : s.setFault.host = s.host := rfl
@[simp] theorem State.setFault_refusal : s.setFault.refusal = s.refusal := rfl
@[simp] theorem State.setFault_free : s.setFault.free = s.free := rfl

/-! ### markRefusal -/

@[simp] theorem State.markRefusal_rate (r : Refusal) : (s.markRefusal r).rate = s.rate := rfl
@[simp] theorem State.markRefusal_ftype (r : Refusal) : (s.markRefusal r).ftype = s.ftype := rfl
@[simp] theorem State.markRefusal_cutHz (r : Refusal) : (s.markRefusal r).cutHz = s.cutHz := rfl
@[simp] theorem State.markRefusal_q (r : Refusal) : (s.markRefusal r).q = s.q := rfl
@[simp] theorem State.markRefusal_gainDb (r : Refusal) : (s.markRefusal r).gainDb = s.gainDb := rfl
@[simp] theorem State.markRefusal_coef (r : Refusal) : (s.markRefusal r).coef = s.coef := rfl
@[simp] theorem State.markRefusal_delay (r : Refusal) : (s.markRefusal r).delay = s.delay := rfl
@[simp] theorem State.markRefusal_sm (r : Refusal) : (s.markRefusal r).sm = s.sm := rfl
@[simp] theorem State.markRefusal_fault (r : Refusal) : (s.markRefusal r).fault = s.fault := rfl
@[simp] theorem State.markRefusal_port (r : Refusal) : (s.markRefusal r).port = s.port := rfl
@[simp] theorem State.markRefusal_host (r : Refusal) : (s.markRefusal r).host = s.host := rfl
@[simp] theorem State.markRefusal_refusal (r : Refusal) : (s.markRefusal r).refusal = s.refusal.or (some r) := rfl
@[simp] theorem State.markRefusal_free (r : Refusal) : (s.markRefusal r).free = s.free := rfl

/-! ### drawFree -/

@[simp] theorem State.drawFree_rate : s.drawFree.rate = s.rate := rfl
@[simp] theorem State.drawFree_ftype : s.drawFree.ftype = s.ftype := rfl
@[simp] theorem State.drawFree_cutHz : s.drawFree.cutHz = s.cutHz := rfl
@[simp] theorem State.drawFree_q : s.drawFree.q = s.q := rfl
@[simp] theorem State.drawFree_gainDb : s.drawFree.gainDb = s.gainDb := rfl
@[simp] theorem State.drawFree_coef : s.drawFree.coef = s.coef := rfl
@[simp] theorem State.drawFree_delay : s.drawFree.delay = s.delay := rfl
@[simp] theorem State.drawFree_sm : s.drawFree.sm = s.sm := rfl
@[simp] theorem State.drawFree_fault : s.drawFree.fault = s.fault := rfl
@[simp] theorem State.drawFree_port : s.drawFree.port = s.port := rfl
@[simp] theorem State.drawFree_host : s.drawFree.host = s.host := rfl
@[simp] theorem State.drawFree_refusal : s.drawFree.refusal = s.refusal := rfl
@[simp] theorem State.drawFree_free : s.drawFree.free = s.free + 1 := rfl

/-! ### derive -/

@[simp] theorem State.derive_rate (c : Config) : (s.derive c).rate = s.rate := rfl
@[simp] theorem State.derive_ftype (c : Config) : (s.derive c).ftype = s.ftype := rfl
@[simp] theorem State.derive_cutHz (c : Config) : (s.derive c).cutHz = s.cutHz := rfl
@[simp] theorem State.derive_q (c : Config) : (s.derive c).q = s.q := rfl
@[simp] theorem State.derive_gainDb (c : Config) : (s.derive c).gainDb = s.gainDb := rfl
@[simp] theorem State.derive_coef (c : Config) : (s.derive c).coef = derivedCoef c s := rfl
@[simp] theorem State.derive_delay (c : Config) : (s.derive c).delay = s.delay := rfl
@[simp] theorem State.derive_sm (c : Config) : (s.derive c).sm = s.sm := rfl
@[simp] theorem State.derive_fault (c : Config) : (s.derive c).fault = s.fault := rfl
@[simp] theorem State.derive_port (c : Config) : (s.derive c).port = s.port := rfl
@[simp] theorem State.derive_host (c : Config) : (s.derive c).host = s.host := rfl
@[simp] theorem State.derive_refusal (c : Config) : (s.derive c).refusal = s.refusal := rfl
@[simp] theorem State.derive_free (c : Config) : (s.derive c).free = s.free := rfl

/-! ### deliver -/

@[simp] theorem State.deliver_rate : s.deliver.rate = s.rate := by unfold State.deliver; split <;> rfl
@[simp] theorem State.deliver_ftype : s.deliver.ftype = s.ftype := by unfold State.deliver; split <;> rfl
@[simp] theorem State.deliver_cutHz : s.deliver.cutHz = s.cutHz := by unfold State.deliver; split <;> rfl
@[simp] theorem State.deliver_q : s.deliver.q = s.q := by unfold State.deliver; split <;> rfl
@[simp] theorem State.deliver_gainDb : s.deliver.gainDb = s.gainDb := by unfold State.deliver; split <;> rfl
@[simp] theorem State.deliver_coef : s.deliver.coef = s.coef := by unfold State.deliver; split <;> rfl
@[simp] theorem State.deliver_delay : s.deliver.delay = s.delay := by unfold State.deliver; split <;> rfl
@[simp] theorem State.deliver_sm : s.deliver.sm = s.sm := by unfold State.deliver; split <;> rfl
@[simp] theorem State.deliver_fault : s.deliver.fault = s.fault := by unfold State.deliver; split <;> rfl
@[simp] theorem State.deliver_refusal : s.deliver.refusal = s.refusal := by unfold State.deliver; split <;> rfl
@[simp] theorem State.deliver_free : s.deliver.free = s.free := by unfold State.deliver; split <;> rfl

@[simp] theorem State.deliver_inFlight : s.deliver.port.inFlight = s.port.inFlight := by
  unfold State.deliver; split <;> rfl

@[simp] theorem State.deliver_rsp : s.deliver.port.rsp = none := by
  unfold State.deliver; split <;> simp_all

@[simp] theorem State.deliver_acts : s.deliver.host.acts = s.host.acts := by
  unfold State.deliver; split <;> rfl

@[simp] theorem State.deliver_taken : s.deliver.host.taken = s.host.taken ++ s.port.rsp.toList := by
  unfold State.deliver; split <;> simp_all

/-! ### resetBlock -/

@[simp] theorem State.resetBlock_rate (c : Config) : (s.resetBlock c).rate = (State.resetWith c).rate := rfl
@[simp] theorem State.resetBlock_ftype (c : Config) : (s.resetBlock c).ftype = (State.resetWith c).ftype := rfl
@[simp] theorem State.resetBlock_cutHz (c : Config) : (s.resetBlock c).cutHz = (State.resetWith c).cutHz := rfl
@[simp] theorem State.resetBlock_q (c : Config) : (s.resetBlock c).q = (State.resetWith c).q := rfl
@[simp] theorem State.resetBlock_gainDb (c : Config) : (s.resetBlock c).gainDb = (State.resetWith c).gainDb := rfl
@[simp] theorem State.resetBlock_coef (c : Config) : (s.resetBlock c).coef = (State.resetWith c).coef := rfl
@[simp] theorem State.resetBlock_delay (c : Config) : (s.resetBlock c).delay = (State.resetWith c).delay := rfl
@[simp] theorem State.resetBlock_sm (c : Config) : (s.resetBlock c).sm = (State.resetWith c).sm := rfl
@[simp] theorem State.resetBlock_fault (c : Config) : (s.resetBlock c).fault = (State.resetWith c).fault := rfl
@[simp] theorem State.resetBlock_port (c : Config) : (s.resetBlock c).port = (State.resetWith c).port := rfl
@[simp] theorem State.resetBlock_host (c : Config) : (s.resetBlock c).host = s.host := rfl
@[simp] theorem State.resetBlock_refusal (c : Config) : (s.resetBlock c).refusal = s.refusal := rfl
@[simp] theorem State.resetBlock_free (c : Config) : (s.resetBlock c).free = s.free := rfl

end

end Sys2Proof.Machine
end

