-- ==== Sys2Proof/Laws/Ops.lean ====
section
/-! SUPPORT. What each shared operation can do, said once: derivation, smoother, the setters, PROCESS. -/

namespace Sys2Proof.Machine

section
variable (c : Config) (s : State)

/-! ### derive -/

/-- `derive()` reads five registers: two states that agree on them get the same coefficients (R160). -/
theorem derivedCoef_congr {s t : State} (hr : s.rate = t.rate) (hc : s.cutHz = t.cutHz) (hq : s.q = t.q)
    (hg : s.gainDb = t.gainDb) (ht : s.ftype = t.ftype) : derivedCoef c s = derivedCoef c t := by
  simp [derivedCoef, hr, hc, hq, hg, ht]

@[simp] theorem derivedCoef_writeCoef (k : Option Coef) : derivedCoef c (s.writeCoef k) = derivedCoef c s := rfl

@[simp] theorem derivedCoef_derive : derivedCoef c (s.derive c) = derivedCoef c s := rfl

@[simp] theorem derivedCoef_writeSm (m : Smoother) : derivedCoef c (s.writeSm m) = derivedCoef c s := rfl

@[simp] theorem derivedCoef_writeDelay (d : Delay) : derivedCoef c (s.writeDelay d) = derivedCoef c s := rfl

@[simp] theorem derivedCoef_respond (v : F64) : derivedCoef c (s.respond v) = derivedCoef c s := rfl

@[simp] theorem derivedCoef_setInFlight (f : Option InFlight) : derivedCoef c (s.setInFlight f) = derivedCoef c s := rfl

@[simp] theorem derivedCoef_setActs (as : List HostAct) : derivedCoef c (s.setActs as) = derivedCoef c s := rfl

@[simp] theorem derivedCoef_setFault : derivedCoef c s.setFault = derivedCoef c s := rfl

@[simp] theorem derivedCoef_drawFree : derivedCoef c s.drawFree = derivedCoef c s := rfl

@[simp] theorem derivedCoef_markRefusal (r : Refusal) : derivedCoef c (s.markRefusal r) = derivedCoef c s := rfl

@[simp] theorem derivedCoef_deliver : derivedCoef c s.deliver = derivedCoef c s :=
  derivedCoef_congr c (by simp) (by simp) (by simp) (by simp) (by simp)

theorem derivedCoef_none (h : s.rate = none) : derivedCoef c s = none := by simp [derivedCoef, h]

theorem derivedCoef_some {r : F64} (h : s.rate = some r) :
    derivedCoef c s = some (coefOf c r s.cutHz s.q s.gainDb s.ftype) := by simp [derivedCoef, h]

/-! ### The smoother -/

@[simp] theorem setTarget_cur (h : F64) (m : Smoother) : (m.setTarget h).cur = m.cur := rfl

@[simp] theorem setTarget_tgt (h : F64) (m : Smoother) : (m.setTarget h).tgt = h := rfl

@[simp] theorem setTarget_step (h : F64) (m : Smoother) : (m.setTarget h).step = stepOver m.cur h m.len := rfl

@[simp] theorem setTarget_rem (h : F64) (m : Smoother) : (m.setTarget h).rem = m.len := rfl

@[simp] theorem setTarget_len (h : F64) (m : Smoother) : (m.setTarget h).len = m.len := rfl

@[simp] theorem advance_tgt (m : Smoother) : m.advance.tgt = m.tgt := rfl

@[simp] theorem advance_step (m : Smoother) : m.advance.step = m.step := rfl

@[simp] theorem advance_rem (m : Smoother) : m.advance.rem = m.rem - 1 := rfl

@[simp] theorem advance_len (m : Smoother) : m.advance.len = m.len := rfl

@[simp] theorem reclock_cur (r : F64) (m : Smoother) : (m.reclock c r).cur = m.cur := by
  unfold Smoother.reclock; split <;> rfl

@[simp] theorem reclock_tgt (r : F64) (m : Smoother) : (m.reclock c r).tgt = m.tgt := by
  unfold Smoother.reclock; split <;> rfl

@[simp] theorem reclock_len (r : F64) (m : Smoother) : (m.reclock c r).len = rampLen c r := by
  unfold Smoother.reclock; split <;> rfl

theorem reclock_atRest (r : F64) {m : Smoother} (h : m.rem = 0) : m.reclock c r = { m with len := rampLen c r } := by
  simp [Smoother.reclock, h]

theorem reclock_moving (r : F64) {m : Smoother} (h : m.rem ≠ 0) :
    m.reclock c r = { m with len := rampLen c r, step := stepOver m.cur m.tgt (rampLen c r), rem := rampLen c r } := by
  simp [Smoother.reclock, h]

/-- A ramp has no more steps than a counter holds (R107). -/
theorem rampLen_le (r : F64) (h : 1 ≤ c.cntW) : rampLen c r ≤ maxCount c := by
  have : 2 ≤ 2 ^ c.cntW := by simpa using Nat.pow_le_pow_right (by decide : 0 < 2) h
  simp only [rampLen, maxCount]
  split_ifs <;> omega

/-! ### Step 1 of PROCESS -/

theorem smoothStep_atRest (h : s.sm.rem = 0) : smoothStep c s = s := by simp [smoothStep, h]

theorem smoothStep_moving (h : s.sm.rem ≠ 0) :
    smoothStep c s = ((s.writeSm s.sm.advance).writeCutHz s.sm.advance.cur).derive c := by simp [smoothStep, h]

/-- Everything step 1 can do: nothing at rest, else one advance, the new cutoff and its coefficients (R141). -/
theorem smoothStep_cases :
    (s.sm.rem = 0 ∧ smoothStep c s = s) ∨
    (s.sm.rem ≠ 0 ∧ smoothStep c s = ((s.writeSm s.sm.advance).writeCutHz s.sm.advance.cur).derive c) := by
  by_cases h : s.sm.rem = 0
  · exact .inl ⟨h, smoothStep_atRest c s h⟩
  · exact .inr ⟨h, smoothStep_moving c s h⟩

/-! ### PROCESS -/

/-- Everything PROCESS can do: the difference equation with the coefficients in force after step 1, or a free value without them
(R140, R146). -/
theorem processOp_cases (u : F64) :
    (∃ k, (smoothStep c s).coef = some k ∧
      processOp c u s = finishSample u (outputOf k (smoothStep c s).delay u) (smoothStep c s)) ∨
    ((smoothStep c s).coef = none ∧ processOp c u s = finishUnspecified u (smoothStep c s)) := by
  cases h : (smoothStep c s).coef with
  | none => exact .inr ⟨rfl, by simp [processOp, h]⟩
  | some k => exact .inl ⟨k, rfl, by simp [processOp, h]⟩

theorem finishUnspecified_port (u : F64) :
    (finishUnspecified u s).port = { s.port with rsp := some (Config.unspecifiedSample s.free) } := rfl

theorem finishUnspecified_delay (u : F64) :
    (finishUnspecified u s).delay = shiftIn u (Config.unspecifiedSample s.free) s.delay := rfl

theorem finishUnspecified_fault (u : F64) : (finishUnspecified u s).fault = true := rfl

theorem finishUnspecified_coef (u : F64) : (finishUnspecified u s).coef = s.coef := rfl

theorem finishUnspecified_sm (u : F64) : (finishUnspecified u s).sm = s.sm := rfl

theorem finishSample_port (u out : F64) : (finishSample u out s).port = { s.port with rsp := some out } := rfl

theorem finishSample_delay (u out : F64) : (finishSample u out s).delay = shiftIn u out s.delay := rfl

end

end Sys2Proof.Machine
end

