-- ==== Sys2Proof/Laws/Exec.lean ====
section
/-! SUPPORT. Everything `exec` and `step` can do, said once; later proofs take one case each instead of unfolding. -/

namespace Sys2Proof.Machine

theorem typeOfCode_legal (sel : BitVec 3) : (typeOfCode sel).isSome = legalTypeCode sel := by
  revert sel; decide

/-- `exec` is the configured meaning at the default parameters. -/
theorem execWith_config (i : Instr) (s : State) : execWith config i s = exec i s := by cases i <;> rfl

theorem stepWith_config (s : State) : stepWith config s = step s := by
  rw [stepWith, step, show execWith config = exec from funext fun i => funext (execWith_config i)]

theorem clockEdgeWith_config (e : Edge) (s : State) : clockEdgeWith config e s = clockEdge e s := by
  rw [clockEdgeWith, clockEdge, show execWith config = exec from funext fun i => funext (execWith_config i)]

/-- What a next state of a meaning is, command by command, for every configuration; the reserved rows have none. -/
theorem execWith_next_cases {c : Config} {i : Instr} {s t : State} (h : execWith c i s = .next t) :
    (∃ r, i = .setRate r ∧ t = setRateOp c r s) ∨
    (∃ x, i = .setCut x ∧ t = setCutOp x s) ∨
    (∃ v, i = .setQ v ∧ t = setQOp c v s) ∨
    (∃ g, i = .setGain g ∧ t = setGainOp c g s) ∨
    (∃ sel y, i = .setType sel ∧ typeOfCode sel = some y ∧ t = setTypeOp c y s) ∨
    (∃ u, i = .process u ∧ t = processOp c u s) := by
  cases i with
  | setType sel => cases hy : typeOfCode sel <;> simp_all [execWith, setTypeCode, refuseOutcome]
  | reservedType6 => simp [execWith, execReservedType6, refuseOutcome] at h
  | reservedType7 => simp [execWith, execReservedType7, refuseOutcome] at h
  | reservedOp6 d => simp [execWith, execReservedOp6, refuseOutcome] at h
  | reservedOp7 d => simp [execWith, execReservedOp7, refuseOutcome] at h
  | _ => simp_all [execWith]

theorem exec_next_cases {i : Instr} {s t : State} (h : exec i s = .next t) :
    (∃ r, i = .setRate r ∧ t = setRateOp config r s) ∨
    (∃ x, i = .setCut x ∧ t = setCutOp x s) ∨
    (∃ v, i = .setQ v ∧ t = setQOp config v s) ∨
    (∃ g, i = .setGain g ∧ t = setGainOp config g s) ∨
    (∃ sel y, i = .setType sel ∧ typeOfCode sel = some y ∧ t = setTypeOp config y s) ∨
    (∃ u, i = .process u ∧ t = processOp config u s) :=
  execWith_next_cases (execWith_config i s ▸ h)

/-- No meaning faults: the hardware has no fault (60_exceptions.md R190). -/
theorem execWith_ne_fault (c : Config) (i : Instr) (s : State) (f : Fault) : execWith c i s ≠ .fault f := by
  cases i with
  | setType sel => cases hy : typeOfCode sel <;> simp [execWith, setTypeCode, refuseOutcome, hy]
  | _ => simp [execWith, execReservedType6, execReservedType7, execReservedOp6, execReservedOp7, refuseOutcome]

/-- Everything the strict reading can answer: the fault of R146 or what the meaning answers. -/
theorem guarded_cases (c : Config) (run : Meaning) (i : Instr) (s : State) :
    ((∃ u, i = .process u) ∧ (smoothStep c s).coef = none ∧ guarded c run i s = .fault .processBeforeRate) ∨
    (lacksCoef c i s = false ∧ guarded c run i s = run i s) := by
  cases i with
  | process u =>
    cases h : (smoothStep c s).coef with
    | none => exact .inl ⟨⟨u, rfl⟩, rfl, by simp [guarded, lacksCoef, h, faultOutcome]⟩
    | some k => exact .inr (by simp [guarded, lacksCoef, h])
  | _ => exact .inr (by simp [guarded, lacksCoef])

/-- What a next state of the host's sequence comes from, for every configuration and meaning: the command in flight, nothing to do, or
one act of the host. -/
theorem nextAct_next_cases {c : Config} {run : Meaning} {s t : State} (h : nextAct c run s = .next t) :
    (∃ f i, s.port.inFlight = some f ∧ decodeWord f.word = .ok i ∧ run i (s.setInFlight none).deliver = .next t) ∨
    (s.port.inFlight = none ∧ s.host.acts = [] ∧ t = s) ∨
    (∃ as, s.port.inFlight = none ∧ s.host.acts = .reset :: as ∧ t = (s.setActs as).resetBlock c) ∨
    (∃ as, s.port.inFlight = none ∧ s.host.acts = .take :: as ∧ t = (s.setActs as).deliver) ∨
    (∃ w as i, s.port.inFlight = none ∧ s.host.acts = .command w :: as ∧ decodeWord w = .ok i ∧
      run i (acceptFrom as s) = .next t) := by
  unfold nextAct at h
  cases hf : s.port.inFlight with
  | some f =>
    cases hd : decodeWord f.word <;> simp_all [runWordBy, refuseOutcome]
  | none =>
    rcases ha : s.host.acts with _ | ⟨a, as⟩
    · simp_all
    · cases a with
      | reset => simp_all
      | take => simp_all
      | command w => cases hd : decodeWord w <;> simp_all [runWordBy, refuseOutcome]

@[simp] theorem takeBeat_true (s : State) : takeBeat true s = s.deliver := rfl

@[simp] theorem takeBeat_false (s : State) : takeBeat false s = s := rfl

/-- Everything a clock edge can do, for every configuration and meaning (R55, R210). -/
theorem clockEdgeBy_cases (c : Config) (run : Meaning) (e : Edge) (s : State) :
    (e.pins.rst = true ∧ clockEdgeBy c run e s = (takeBeat e.pins.rspReady s).resetBlock c) ∨
    (∃ f, s.port.inFlight = some f ∧ clockEdgeBy c run e s = completeWordBy run f.word (s.setInFlight none)) ∨
    (∃ f, s.port.inFlight = some f ∧ clockEdgeBy c run e s = s.setInFlight (some { f with age := f.age + 1 })) ∨
    (s.port.inFlight = none ∧ clockEdgeBy c run e s = takeBeat e.pins.rspReady s) ∨
    (s.port.inFlight = none ∧ s.port.rsp = none ∧
      clockEdgeBy c run e s = s.setInFlight (some { word := e.pins.word, age := 0 })) := by
  cases hr : e.pins.rst with
  | true => exact .inl ⟨rfl, by simp [clockEdgeBy, hr]⟩
  | false =>
    right
    cases hf : s.port.inFlight with
    | some f =>
      by_cases hc : (e.completes || mustComplete c f) = true
      · exact .inl ⟨f, rfl, by simp [clockEdgeBy, hr, hf, hc]⟩
      · exact .inr (.inl ⟨f, rfl, by simp [clockEdgeBy, hr, hf, hc]⟩)
    | none =>
      right; right
      cases hv : s.port.rsp with
      | some v => exact .inl ⟨rfl, by simp [clockEdgeBy, hr, hf, hv]⟩
      | none =>
        cases hc : e.pins.cmdValid with
        | true => exact .inr ⟨rfl, rfl, by simp [clockEdgeBy, hr, hf, hv, hc]⟩
        | false => exact .inl ⟨rfl, by simp [clockEdgeBy, hr, hf, hv, hc, takeBeat, State.deliver]⟩

end Sys2Proof.Machine
end

