-- ==== Sys2Proof/Laws/PerInstr.lean ====
section
/-! SUPPORT. Facts said constructor by constructor. Family EncodeFields: the word of an instruction holds its opcode in bits 66:64 and
its operand in bits 63:0 (spec 30_encoding.md R70). -/

namespace Sys2Proof

theorem opField_append (o : BitVec 3) (d : F64) : opField (o ++ d) = o := by
  apply BitVec.eq_of_toNat_eq
  have hd := d.isLt
  have ho := o.isLt
  simp only [opField, BitVec.extractLsb'_toNat, BitVec.toNat_append, Nat.shiftLeft_eq, Nat.shiftRight_eq_div_pow]
  rw [Nat.mul_comm, ← Nat.two_pow_add_eq_or_of_lt hd]
  omega

theorem dataField_append (o : BitVec 3) (d : F64) : dataField (o ++ d) = d := by
  apply BitVec.eq_of_toNat_eq
  have hd := d.isLt
  simp only [dataField, BitVec.extractLsb'_toNat, BitVec.toNat_append, Nat.shiftLeft_eq, Nat.shiftRight_eq_div_pow]
  rw [Nat.mul_comm, ← Nat.two_pow_add_eq_or_of_lt hd]
  omega

namespace Laws.EncodeFields

def Statement (i : Instr) : Prop := opField (encode i) = i.op ∧ dataField (encode i) = i.data

theorem setRate (r : F64) : Statement (.setRate r) := ⟨opField_append _ _, dataField_append _ _⟩

theorem setCut (h : F64) : Statement (.setCut h) := ⟨opField_append _ _, dataField_append _ _⟩

theorem setQ (v : F64) : Statement (.setQ v) := ⟨opField_append _ _, dataField_append _ _⟩

theorem setGain (g : F64) : Statement (.setGain g) := ⟨opField_append _ _, dataField_append _ _⟩

theorem setType (sel : BitVec 3) : Statement (.setType sel) := ⟨opField_append _ _, dataField_append _ _⟩

theorem process (u : F64) : Statement (.process u) := ⟨opField_append _ _, dataField_append _ _⟩

theorem reservedType6 : Statement .reservedType6 := ⟨opField_append _ _, dataField_append _ _⟩

theorem reservedType7 : Statement .reservedType7 := ⟨opField_append _ _, dataField_append _ _⟩

theorem reservedOp6 (d : F64) : Statement (.reservedOp6 d) := ⟨opField_append _ _, dataField_append _ _⟩

theorem reservedOp7 (d : F64) : Statement (.reservedOp7 d) := ⟨opField_append _ _, dataField_append _ _⟩

end Laws.EncodeFields

end Sys2Proof
end

