-- ==== Sys2Proof/Tests/Slice0.lean ====
section
/-! SUPPORT. The model's own tests. Expected values are those of spec/95_test_vectors.md (the vector's number stands by the test) or are
written out from the rule named; every test is one step on a small state. The second half holds a witness for the hypotheses of each
statement of Certificates/Slice0/Obligations.lean. -/

namespace Sys2Proof.Tests

open Sys2Proof Sys2Proof.Machine

set_option Elab.async false

/-! ## Helpers -/

/-- The outcome is a next state with a property. -/
def after (r : Result) (p : State → Bool) : Bool :=
  match r with
  | .next t => p t
  | .fault _ => false
  | .refused _ => false

def isRefusal (r : Result) (m : Refusal) : Bool :=
  match r with
  | .next _ => false
  | .fault _ => false
  | .refused x => x == m

/-- The low-pass coefficients of vector V1. -/
def coefV1 : Coef :=
  { b0 := 0x3F72DB936615A75E#64, b1 := 0x3F82DB936615A75E#64, b2 := 0x3F72DB936615A75E#64,
    a1 := 0xBFFCC8FF51C70AF2#64, a2 := 0x3FEA28DB3EBEC31D#64 }

/-- The state after V1, from the vector's table. -/
def stateV1 : State :=
  { State.reset with
    rate := some 0x40E5888000000000#64, coef := some coefV1, sm := { State.reset.sm with len := 2205 } }

/-- The terms common to V1 to V6, from their table. -/
def termsV1 : CommonTerms :=
  { sn := 0x3FC22CDEABEC443D#64, cs := 0x3FEFACFE8CDED93F#64, alpha := 0x3FB9B5253A248A86#64 }

/-- The smoother of V30 after its SETCUT. -/
def smV30 : Smoother :=
  { cur := 0x408F400000000000#64, tgt := 0x409F400000000000#64, step := 0x3FDD0662AF4F8742#64, rem := 2205, len := 2205 }

def pinsOf (rst valid : Bool) (op : BitVec 3) (data : F64) (ready : Bool) : Pins :=
  { rst := rst, cmdValid := valid, cmdOp := op, cmdData := data, rspReady := ready }

def edgeOf (rst valid : Bool) (op : BitVec 3) (data : F64) (ready done : Bool) : Edge :=
  { pins := pinsOf rst valid op data ready, completes := done }

/-! ## Well-formedness: the one check, and the terms it refuses (R74, R77) -/

theorem test_wf_refuses_typeCode_6 : (Instr.setType 6#3).wf = false := by decide

theorem test_wf_refuses_typeCode_7 : (Instr.setType 7#3).wf = false := by decide

theorem test_wf_admits_typeCode_5 : (Instr.setType 5#3).wf = true := by decide

/-! ## Decoding words written out from the encoding (E1, E3) -/

theorem test_decode_setRate : decodeTableWord 72 0x040E5888000000000 = some (.setRate 0x40E5888000000000#64) := by decide

theorem test_decode_setCut : decodeTableWord 72 0x1407F400000000000 = some (.setCut 0x407F400000000000#64) := by decide

theorem test_decode_setQ : decodeTableWord 72 0x23FE69FBE76C8B439 = some (.setQ 0x3FE69FBE76C8B439#64) := by decide

theorem test_decode_setGain : decodeTableWord 72 0x3C018000000000000 = some (.setGain 0xC018000000000000#64) := by decide

theorem test_decode_setType : decodeTableWord 72 0x40000000000000005 = some (.setType 5#3) := by decide

theorem test_decode_process : decodeTableWord 72 0x5BFF0000000000000 = some (.process 0xBFF0000000000000#64) := by decide

theorem test_decode_reservedType6 : decodeTableWord 72 0x40000000000000006 = some .reservedType6 := by decide

theorem test_decode_reservedType7 : decodeTableWord 72 0x40000000000000007 = some .reservedType7 := by decide

theorem test_decode_reservedOp6 : decodeTableWord 72 0x63FF0000000000000 = some (.reservedOp6 0x3FF0000000000000#64) := by decide

theorem test_decode_reservedOp7 : decodeTableWord 72 0x7FFFFFFFFFFFFFFFF = some (.reservedOp7 0xFFFFFFFFFFFFFFFF#64) := by decide

theorem test_decode_rejects_bit3 : decodeTableWord 72 0x40000000000000008 = none := by decide

theorem test_decode_rejects_bit63 : decodeTableWord 72 0x48000000000000001 = none := by decide

theorem test_encode_setType : encode (.setType 3#3) = 0x40000000000000003#67 := by decide

theorem test_encode_process : encode (.process 0x3FF0000000000000#64) = 0x53FF0000000000000#67 := by decide

/-! ## Numerics (A1, A2, V20) -/

theorem test_fadd_A1 : fadd 0x3FB999999999999A#64 0x3FC999999999999A#64 = 0x3FD3333333333334#64 := by decide +kernel

theorem test_fadd_negative_zeros : fadd 0x8000000000000000#64 0x8000000000000000#64 = 0x8000000000000000#64 := by decide +kernel

theorem test_fadd_signalling_nan : fadd 0x7FF0000000000001#64 0x3FF0000000000000#64 = 0x7FF8000000000000#64 := by decide +kernel

theorem test_fmul_A1 : fmul 0x3FB999999999999A#64 0x3FB999999999999A#64 = 0x3F847AE147AE147C#64 := by decide +kernel

theorem test_fmul_overflow : fmul 0x7FE1CCF385EBC8A0#64 0x4024000000000000#64 = 0x7FF0000000000000#64 := by decide +kernel

theorem test_fdiv_A1 : fdiv 0x3FF0000000000000#64 0x4008000000000000#64 = 0x3FD5555555555555#64 := by decide +kernel

theorem test_fdiv_tie_to_even : fdiv 0x0000000000000001#64 0x4000000000000000#64 = 0x0000000000000000#64 := by decide +kernel

theorem test_fsqrt_A1 : fsqrt 0x4000000000000000#64 = 0x3FF6A09E667F3BCD#64 := by decide +kernel

theorem test_fsub_infinities : fsub 0x7FF0000000000000#64 0x7FF0000000000000#64 = 0x7FF8000000000000#64 := by decide +kernel

theorem test_fneg_zero : fneg 0x0000000000000000#64 = 0x8000000000000000#64 := by decide +kernel

theorem test_fsin_A2_pi : fsinRef 0x400921FB54442D18#64 = 0x3CA1A62633145C07#64 := by decide +kernel

theorem test_fcos_A2_one : fcosRef 0x3FF0000000000000#64 = 0x3FE14A280FB5068C#64 := by decide +kernel

theorem test_fexp10_A2 : fexp10Ref 0xBFC3333333333333#64 = 0x3FE6A77DEAE8AB8A#64 := by decide +kernel

theorem test_fexp10_A2_integer : fexp10Ref 0x3FF0000000000000#64 = 0x4024000000000000#64 := by decide +kernel

theorem test_rampLen_V20_floor : rampLen config 0x40D5888000000000#64 = 1102 := by decide +kernel

theorem test_rampLen_V20_clamped : rampLen config 0x42374876E8000000#64 = 4294967295 := by decide +kernel

/-! ## The coefficient engine on the terms of V1 to V7 -/

theorem test_lowPass_V1 : divideByA0 (rawCoef config .lowPass posZero termsV1) = coefV1 := by decide +kernel

theorem test_highPass_V2 : divideByA0 (rawCoef config .highPass posZero termsV1) =
    { coefV1 with b0 := 0x3FECEEB678933641#64, b1 := 0xBFFCEEB678933641#64, b2 := 0x3FECEEB678933641#64 } := by decide +kernel

theorem test_bandPass_V3 : divideByA0 (rawCoef config .bandPass posZero termsV1) =
    { coefV1 with b0 := 0x3FB75C930504F38C#64, b1 := 0#64, b2 := 0xBFB75C930504F38C#64 } := by decide +kernel

theorem test_bandPass_V3_skirt : divideByA0 (rawBandPass .constantSkirt termsV1) =
    { coefV1 with b0 := 0x3FB084441A552A23#64, b1 := 0#64, b2 := 0xBFB084441A552A23#64 } := by decide +kernel

theorem test_notch_V4 : divideByA0 (rawCoef config .notch posZero termsV1) =
    { coefV1 with b0 := 0x3FED146D9F5F618F#64, b1 := 0xBFFCC8FF51C70AF2#64, b2 := 0x3FED146D9F5F618F#64 } := by decide +kernel

theorem test_lowShelf_V5 : divideByA0 (rawCoef config .lowShelf 0x4018000000000000#64 termsV1) =
    { b0 := 0x3FF0915460153582#64, b1 := 0xBFFD2FA06F73B579#64, b2 := 0x3FEA151DFB737747#64,
      a1 := 0xBFFD4AA0B751075F#64, a2 := 0x3FEB01C62BE33E7F#64 } := by decide +kernel

theorem test_highShelf_V6 : divideByA0 (rawCoef config .highShelf 0x4018000000000000#64 termsV1) =
    { b0 := 0x3FFED48F45DE230C#64, b1 := 0xC00C38883A0CE346#64, b2 := 0x3FFA050E74ECAD65#64,
      a1 := 0xBFFC2F9C538700C8#64, a2 := 0x3FE9305334701554#64 } := by decide +kernel

theorem test_lowShelf_V7_identity : divideByA0 (rawCoef config .lowShelf posZero termsV1) =
    { coefV1 with b0 := 0x3FF0000000000000#64, b1 := 0xBFFCC8FF51C70AF2#64, b2 := 0x3FEA28DB3EBEC31D#64 } := by decide +kernel

/-! ## The commands -/

theorem test_setRate_V1 : after (exec (.setRate 0x40E5888000000000#64) State.reset) (fun t => t == stateV1) = true := by
  decide +kernel

/-- V16, second command: a ramp in flight is re-planned. -/
theorem test_setRate_V16_replans :
    after (exec (.setRate 0x40E5888000000000#64)
      { State.reset with sm := { State.reset.sm with tgt := 0x409F400000000000#64, step := 0x408F400000000000#64, rem := 1 } })
      (fun t => t.sm == smV30 && t.coef == some coefV1) = true := by decide +kernel

theorem test_setCut_V30 : after (exec (.setCut 0x409F400000000000#64) stateV1) (fun t => t ==
    { stateV1 with sm := smV30 }) = true := by decide +kernel

/-- V34: the target is the present value. -/
theorem test_setCut_V34_same_value : after (exec (.setCut 0x408F400000000000#64) stateV1) (fun t =>
    t.sm.step == 0#64 && t.sm.rem == 2205) = true := by decide +kernel

theorem test_setQ_V8 : after (exec (.setQ 0x4000000000000000#64) stateV1) (fun t => t.q == 0x4000000000000000#64 && t.coef == some
    { b0 := 0x3F740A3EF8F3C02D#64, b1 := 0x3F840A3EF8F3C02D#64, b2 := 0x3F740A3EF8F3C02D#64,
      a1 := 0xBFFE970139FAF64A#64, a2 := 0x3FEDCE546BBD8A96#64 }) = true := by decide +kernel

/-- V9, first row. -/
theorem test_setQ_V9_zero : after (exec (.setQ 0#64) stateV1) (fun t => t.coef == some
    { b0 := 0#64, b1 := 0#64, b2 := 0#64, a1 := 0x8000000000000000#64, a2 := 0x7FF8000000000000#64 }) = true := by decide +kernel

theorem test_setGain_V8 : after (exec (.setGain 0x4018000000000000#64) stateV1) (fun t =>
    t == { stateV1 with gainDb := 0x4018000000000000#64 }) = true := by decide +kernel

theorem test_setType_V2 : after (exec (.setType 1#3) stateV1) (fun t => t == { stateV1 with
    ftype := .highPass,
    coef := some { coefV1 with b0 := 0x3FECEEB678933641#64, b1 := 0xBFFCEEB678933641#64, b2 := 0x3FECEEB678933641#64 } }) = true := by
  decide +kernel

theorem test_setType_refused : isRefusal (exec (.setType 6#3) stateV1) .reservedTypeCode = true := by decide

/-- V13. -/
theorem test_process_V13 :
    after (exec (.process 0x3FF0000000000000#64) { stateV1 with
      delay := { x1 := 0x3FF0000000000000#64, x2 := 0x3FF0000000000000#64, y1 := 0x3F969FF870D091AE#64, y2 := 0x3F72DB936615A75E#64 } })
      (fun t => t.port.rsp == some 0x3FABDA8FFD3B5B5F#64 && t.delay ==
        { x1 := 0x3FF0000000000000#64, x2 := 0x3FF0000000000000#64, y1 := 0x3FABDA8FFD3B5B5F#64, y2 := 0x3F969FF870D091AE#64 }) = true := by
  decide +kernel

/-- V30, k = 1: step 1 runs before the difference equation. -/
theorem test_process_V30_first_step :
    after (exec (.process 0#64) { stateV1 with sm := smV30 })
      (fun t => t.cutHz == 0x408F43A0CC55E9F1#64 && t.sm.cur == 0x408F43A0CC55E9F1#64 && t.sm.rem == 2204 &&
        (t.coef.map Coef.b0) == some 0x3F72DFBFDECD5FF6#64) = true := by decide +kernel

/-- E3, on a state with coefficients. -/
theorem test_reserved_E3 :
    isRefusal (runWord 0x60000000000000000#67 stateV1) .reservedOpcode = true ∧
    isRefusal (runWord 0x7FFFFFFFFFFFFFFFF#67 stateV1) .reservedOpcode = true ∧
    isRefusal (runWord 0x40000000000000007#67 stateV1) .reservedTypeCode = true ∧
    isRefusal (runWord 0x44000000000000000#67 stateV1) .reservedTypeCode = true := by decide +kernel

/-! ## Steps, ports, reset -/

theorem test_step_runs_placed_word :
    after (step (State.reset.withFetchWord 72 0x24000000000000000)) (fun t => t.q == 0x4000000000000000#64) = true := by decide +kernel

/-- P4 c, hardware column: the word is ignored. -/
theorem test_port_ignores_reserved_word :
    clockEdge (edgeOf false false 0#3 0#64 false true)
      (clockEdge (edgeOf false true 6#3 0#64 false false) stateV1) = { stateV1 with refusal := some .reservedOpcode } := by
  decide +kernel

/-- V18. Hardware: one beat whose value is also in `y1`, and the fault bit; the strict reading: the fault. -/
theorem test_process_V18 :
    after (exec (.process 0x3FF0000000000000#64) State.reset) (fun t => t.fault && t.port.rsp == some t.delay.y1 &&
      t.delay.x1 == 0x3FF0000000000000#64 && t.delay.x2 == 0#64 && t.delay.y2 == 0#64) = true ∧
    strictExec (.process 0x3FF0000000000000#64) State.reset = .fault .processBeforeRate := by
  refine ⟨?_, rfl⟩
  simp [after, exec, execProcess, processOp, smoothStep, State.reset, State.resetWith, finishUnspecified, finishSample, shiftIn]
  decide

/-- R55: a beat that is taken at the reset edge is delivered. -/
theorem test_port_beat_taken_at_reset :
    (clockEdge { pins := pinsOf true false 0#3 0#64 true, completes := false } (State.reset.respond 7#64)).host.taken = [7#64] := by decide +kernel

/-- V41: reset wins over a command in the same cycle; V40 from a state with a NaN in `y1` and the fault bit set. -/
theorem test_port_reset_V41 :
    clockEdge (edgeOf true true 5#3 0x3FF0000000000000#64 false true)
      { stateV1 with fault := true, delay := { stateV1.delay with y1 := 0x7FF8000000000000#64 } } = State.reset := by decide +kernel

/-! ## Witnesses: states and operands that meet the hypotheses of the statements -/

/-- A state that meets the invariant and has a rate: SETRATE +0.0 from reset, all coefficients `qNaN` (R122). -/
def rated : State := setRateOp config posZero State.reset

/-- A state with a smoother moving, one step left, that meets `SmootherOk`. -/
def movingOne : State := { rated with sm := { rated.sm with rem := 1 } }

/-- A host sequence of one command, on a state. -/
def withActs (as : List HostAct) (s : State) : State := { s with host := { acts := as, taken := [] } }

/-- A simple lawful numerics record: sine zero, cosine one, power of ten one but at the infinities. -/
def plainNum : Num where
  fsin x := if isFinite x then (if isZero x then x else posZero) else qNaN
  fcos x := if isFinite x then one else qNaN
  fexp10 x := if isNaN x then qNaN else if isFinite x then one else if signBit x then posZero else posInf

theorem plainNum_lawful : NumLawful plainNum where
  sin_nonfinite x h := by simp [plainNum, h]
  sin_zero x h := by
    have h' : magBits x = 0 := by simpa [isZero] using h
    have : isFinite x = true := by simp [isFinite, h', infMag]
    simp [plainNum, h, this]
  sin_bound x h := by
    by_cases hz : isZero x = true
    · have h' : magBits x = 0 := by simpa [isZero] using hz
      simp [plainNum, h, hz, h']
    · have hz' : isZero x = false := by simpa using hz
      have e : plainNum.fsin x = posZero := by simp [plainNum, h, hz']
      rw [e]; decide
  cos_nonfinite x h := by simp [plainNum, h]
  cos_zero x h := by
    have h' : magBits x = 0 := by simpa [isZero] using h
    have : isFinite x = true := by simp [isFinite, h', infMag]
    simp [plainNum, this]
  cos_bound x h := by simp only [plainNum, h]; decide
  exp10_nan x h := by simp [plainNum, h]
  exp10_posInf := by decide
  exp10_negInf := by decide
  exp10_zero x h := by
    have h' : magBits x = 0 := by simpa [isZero] using h
    have hf : isFinite x = true := by simp [isFinite, h', infMag]
    have hn : isNaN x = false := by simp [isNaN, h', infMag]
    simp [plainNum, hf, hn]
  exp10_range x h := by
    have e : plainNum.fexp10 x = if isFinite x then one else if signBit x then posZero else posInf := by simp [plainNum, h]
    rw [e]; split
    · decide
    · split <;> decide

def plainConfig : Config := { config with num := plainNum }

theorem rated_consistent : Consistent config rated := rfl

theorem rated_smootherOk : SmootherOk config rated := ⟨rfl, by decide +kernel, by decide +kernel, by decide +kernel⟩

theorem rated_inv : Inv config rated := ⟨rated_consistent, rated_smootherOk, .inl rfl⟩

theorem movingOne_smootherOk : SmootherOk config movingOne := ⟨rfl, by decide +kernel, by decide +kernel, by decide +kernel⟩

theorem witness_DecodeOfEncode : (Instr.setType 5#3).wf = true := rfl

theorem witness_EncodeOfDecode : decodeWord 0x40000000000000005#67 = .ok (.setType 5#3) := rfl

theorem witness_StepRunsDecodedCommand :
    (withActs [.command 0x24000000000000000#67] rated).port.inFlight = none ∧
    decodeWord 0x24000000000000000#67 = .ok (.setQ 0x4000000000000000#64) ∧
    ({ rated with port := { inFlight := some ⟨0x24000000000000000#67, 0⟩, rsp := none } } : State).port.inFlight =
      some ⟨0x24000000000000000#67, 0⟩ := ⟨rfl, rfl, rfl⟩

theorem witness_PlacedWordRunsNext : decodeTableWord 72 0x24000000000000000 = some (.setQ 0x4000000000000000#64) := by decide

/-- The lowest and highest reserved words of each case, and the edge that accepts one. -/
theorem witness_ReservedWordsAreRefusedAndIgnored :
    (0x60000000000000000#67).extractLsb' 64 3 = 6#3 ∧ (0x7FFFFFFFFFFFFFFFF#67).extractLsb' 64 3 = 7#3 ∧
    ((0x40000000000000006#67).extractLsb' 64 3 = 4#3 ∧ 5 < (0x40000000000000006#67).toNat % 2 ^ 64) ∧
    ((0x4FFFFFFFFFFFFFFFF#67).extractLsb' 64 3 = 4#3 ∧ 5 < (0x4FFFFFFFFFFFFFFFF#67).toNat % 2 ^ 64) ∧
    rated.port = { inFlight := none, rsp := none } ∧ rated.refusal = none ∧
    (rated.markRefusal .reservedTypeCode).refusal = some .reservedTypeCode ∧
    (6#3 ++ 0#64 : BitVec 67) = 0x60000000000000000#67 := by decide +kernel

theorem witness_IdleBlockKeepsEverything : rated.port.inFlight = none ∧ rated.host.acts = [] := ⟨rfl, rfl⟩

/-- A reset, a response taken, a response taken with none on offer. -/
theorem witness_HostActsResetAndTake :
    ((withActs [.reset] rated).host.acts = .reset :: [] ∧ (withActs [.reset] rated).port.inFlight = none) ∧
    ((withActs [.take] (rated.respond one)).host.acts = .take :: [] ∧ (withActs [.take] (rated.respond one)).port.rsp = some one) ∧
    ((withActs [.take] rated).host.acts = .take :: [] ∧ (withActs [.take] rated).port.rsp = none) :=
  ⟨⟨rfl, rfl⟩, ⟨rfl, rfl⟩, rfl, rfl⟩

theorem witness_SetRateResult : State.reset.sm.rem = 0 ∧ movingOne.sm.rem ≠ 0 := by decide +kernel

theorem witness_SetCutResult : 1 ≤ State.reset.sm.len := by decide

theorem witness_SettersIgnoreDelayAndResponse : ∃ t, exec (.setQ one) rated = .next t := ⟨_, rfl⟩

theorem witness_RepeatedSetterChangesNothing : ∃ t, exec (.setRate one) movingOne = .next t := ⟨_, rfl⟩

theorem witness_SettersCommuteWithSetRate :
    1 ≤ State.reset.sm.len ∧ ∃ t t', exec (.setCut two) State.reset = .next t ∧ exec (.setRate one) t = .next t' :=
  ⟨by decide, _, _, rfl, rfl⟩

theorem witness_GainUnusedByNonShelfTypes : Consistent config rated ∧ isShelf rated.ftype = false := ⟨rfl, rfl⟩

theorem witness_ProcessAtRestResult : stateV1.sm.rem = 0 ∧ stateV1.coef = some coefV1 := ⟨rfl, rfl⟩

theorem witness_ProcessMovingResult : movingOne.sm.rem ≠ 0 ∧ movingOne.rate = some posZero := ⟨by decide +kernel, rfl⟩

/-- With a rate, and without one at rest and moving. -/
theorem witness_ProcessBeforeRate :
    (Consistent config rated ∧ rated.rate ≠ none) ∧ (Consistent config State.reset ∧ State.reset.rate = none) ∧
    (Consistent config (setCutOp two State.reset) ∧ (setCutOp two State.reset).rate = none) :=
  ⟨⟨rfl, by decide +kernel⟩, ⟨rfl, rfl⟩, ⟨rfl, rfl⟩⟩

theorem witness_NanInY1Sticks :
    (smoothStep config { stateV1 with delay := { stateV1.delay with y1 := qNaN } }).coef ≠ none ∧
    isNaN ({ stateV1 with delay := { stateV1.delay with y1 := qNaN } } : State).delay.y1 = true ∧
    ∃ t, exec (.process one) { stateV1 with delay := { stateV1.delay with y1 := qNaN } } = .next t :=
  ⟨by decide +kernel, by decide, _, rfl⟩

/-- V10: the first response is `b0`; the second hypotheses hold too. -/
theorem witness_ImpulseAnsweredByB0ThenB1 :
    stateV1.sm.rem = 0 ∧ stateV1.delay = { x1 := 0#64, x2 := 0#64, y1 := 0#64, y2 := 0#64 } ∧
    [coefV1.b0, coefV1.b1, coefV1.b2, coefV1.a1, coefV1.a2].all isFinite = true ∧ isZero coefV1.b0 = false ∧ isZero coefV1.b1 = false ∧
    isZero (fsub coefV1.b1 (fmul coefV1.a1 coefV1.b0)) = false ∧ isFinite (fsub coefV1.b1 (fmul coefV1.a1 coefV1.b0)) = true := by
  decide +kernel

theorem witness_ImpulseAnsweredByB0ThenB1_runs :
    ∃ t1 t2, exec (.process one) stateV1 = .next t1 ∧ exec (.process 0#64) t1 = .next t2 := ⟨_, _, rfl, rfl⟩

theorem witness_RampFollowsItsTrajectory :
    Consistent config rated ∧ SmootherOk config rated ∧ rated.rate ≠ none ∧
    ([] : List F64).length < rated.sm.len ∧ rated.sm.len ≤ [one].length :=
  ⟨rfl, rated_smootherOk, by decide +kernel, by decide +kernel, by decide +kernel⟩

theorem witness_RestIsLeftBySetCutReachedByLastStep :
    (SmootherOk config rated ∧ rated.sm.rem = 0 ∧ after (exec (.setCut two) rated) (fun t => t.sm.rem != 0) = true) ∧
    (SmootherOk config movingOne ∧ movingOne.sm.rem ≠ 0 ∧ after (exec (.process one) movingOne) (fun t => t.sm.rem == 0) = true) :=
  ⟨⟨rated_smootherOk, by decide +kernel⟩, movingOne_smootherOk, by decide +kernel⟩

/-- One rate for each case of the rule, at the edges of the cases. -/
theorem witness_RampLengthIsClampedFloor :
    config.cntW = 32 ∧ isFinite (fmul config.tSmooth 0x4034000000000000#64) = true ∧ isInf (fmul config.tSmooth posInf) = true ∧
    fge (fmul config.tSmooth 0x4033FFFFFFFFFFFF#64) one = false ∧
    (fge (fmul config.tSmooth 0x4034000000000000#64) one = true ∧
      fge (fmul config.tSmooth 0x4034000000000000#64) 0x41EFFFFFFFE00000#64 = false) ∧
    fge (fmul config.tSmooth 0x7FF0000000000000#64) 0x41EFFFFFFFE00000#64 = true := by decide +kernel

/-- The product is 4294967295 itself, and the pattern below it. -/
theorem witness_RampLengthIsClampedFloor_top :
    (let c : Config := { config with tSmooth := one };
      c.cntW = 32 ∧ fmul c.tSmooth 0x41EFFFFFFFE00000#64 = 0x41EFFFFFFFE00000#64 ∧
      fge (fmul c.tSmooth 0x41EFFFFFFFE00000#64) 0x41EFFFFFFFE00000#64 = true ∧
      fge (fmul c.tSmooth 0x41EFFFFFFFDFFFFF#64) 0x41EFFFFFFFE00000#64 = false ∧
      fge (fmul c.tSmooth 0x41EFFFFFFFDFFFFF#64) one = true) := by decide +kernel

theorem witness_StatusOutputsFollowTheState :
    (1 ≤ State.reset.sm.len ∧ after (exec (.setCut two) State.reset) (fun t => !t.stAtRest) = true) ∧
    (movingOne.sm.rem = 1 ∧ after (exec (.process one) movingOne) (fun t => t.stAtRest) = true) ∧
    after (exec (.setRate posZero) State.reset) (fun t => t.stRateValid) = true ∧ rated.stRateValid = true := by decide +kernel

/-- Each register is changed by the command that may change it. -/
theorem witness_RegistersChangeOnlyByTheirCommands :
    after (exec (.setRate posZero) State.reset) (fun t => t.rate != State.reset.rate && t.coef != State.reset.coef) = true ∧
    after (exec (.setType 1#3) State.reset) (fun t => t.ftype != State.reset.ftype) = true ∧
    after (exec (.setQ two) State.reset) (fun t => t.q != State.reset.q) = true ∧
    after (exec (.setGain two) State.reset) (fun t => t.gainDb != State.reset.gainDb) = true ∧
    after (exec (.setCut two) State.reset) (fun t => t.sm.tgt != State.reset.sm.tgt && t.sm.step != State.reset.sm.step) = true ∧
    after (exec (.setRate 0x40E5888000000000#64) State.reset) (fun t => t.sm.len != State.reset.sm.len) = true ∧
    after (exec (.process one) { movingOne with sm := { movingOne.sm with tgt := two } })
      (fun t => t.sm.rem != movingOne.sm.rem && t.cutHz != movingOne.cutHz && t.sm.cur != movingOne.sm.cur && t.delay != movingOne.delay) = true ∧
    after (exec (.process one) State.reset) (fun t => t.fault != State.reset.fault) = true := by decide +kernel

theorem witness_HighPassNumeratorSumsToZero : magBits termsV1.cs ≤ oneMag ∧ magBits (fneg one) ≤ oneMag := by decide +kernel

theorem witness_ShelfAtZeroGainIsUnity :
    isZero 0x8000000000000000#64 = true ∧ isShelf .highShelf = true ∧ isFinite (omegaOf one two) = true ∧
    isZero (plainNum.fcos (omegaOf one two)) = false ∧
    isFinite (rawCoef plainConfig .highShelf 0x8000000000000000#64 (commonTerms plainNum two one one)).a0 = true ∧
    isZero (rawCoef plainConfig .highShelf 0x8000000000000000#64 (commonTerms plainNum two one one)).a0 = false := by decide +kernel

theorem witness_ShelfAtZeroGainIsUnity_lawful : NumLawful plainConfig.num := plainNum_lawful

theorem witness_PathologicalParametersGiveNanCoefficients :
    NumLawful plainConfig.num ∧ isNaN qNaN = true ∧
    (isZero 0x8000000000000000#64 = true ∧ isFinite 0x0000000000000001#64 = true ∧ isZero 0x0000000000000001#64 = false) ∧
    isShelf .lowShelf = true := ⟨plainNum_lawful, by decide +kernel⟩

theorem witness_RoundingIsNearestEven :
    0 < 1 ∧ (2 ^ 2098 - 2 ^ 2044) * 1 ≤ 2 ^ 2098 - 2 ^ 2044 ∧ 2 ^ 2098 - 2 ^ 2044 - 1 < (2 ^ 2098 - 2 ^ 2044) * 1 := by decide +kernel

/-- Operands for every case of the sum. -/
theorem witness_AddIsCorrectlyRounded :
    isNaN qNaN = true ∧ (isInf posInf = true ∧ isInf (fneg posInf) = true ∧ signBit posInf ≠ signBit (fneg posInf)) ∧
    isFinite one = true ∧ valueOf one + valueOf (fneg one) = 0 ∧ valueOf one + valueOf one ≠ 0 ∧
    2 ^ 2098 - 2 ^ 2044 ≤ (valueOf 0x7FEFFFFFFFFFFFFF#64 + valueOf 0x7FEFFFFFFFFFFFFF#64).natAbs ∧
    (valueOf one + valueOf one).natAbs < 2 ^ 2098 - 2 ^ 2044 := by decide +kernel

theorem witness_MulIsCorrectlyRounded :
    isNaN qNaN = true ∧ isZero posZero = true ∧ isInf posInf = true ∧ isNaN one = false ∧ isZero one = false ∧ isFinite one = true ∧
    (2 ^ 2098 - 2 ^ 2044) * 2 ^ 1074 ≤ (valueOf 0x7FEFFFFFFFFFFFFF#64 * valueOf two).natAbs ∧
    (valueOf one * valueOf two).natAbs < (2 ^ 2098 - 2 ^ 2044) * 2 ^ 1074 := by decide +kernel

theorem witness_DivIsCorrectlyRounded :
    isNaN qNaN = true ∧ isZero posZero = true ∧ isInf posInf = true ∧ isFinite one = true ∧ isZero one = false ∧
    (2 ^ 2098 - 2 ^ 2044) * (valueOf 0x0000000000000001#64).natAbs ≤ (valueOf one).natAbs * 2 ^ 1074 ∧
    (valueOf one).natAbs * 2 ^ 1074 < (2 ^ 2098 - 2 ^ 2044) * (valueOf two).natAbs := by decide +kernel

theorem witness_SqrtIsCorrectlyRounded :
    isNaN qNaN = true ∧ (signBit (fneg one) = true ∧ isZero (fneg one) = false) ∧
    (isFinite two = true ∧ signBit two = false ∧ isZero two = false) := by decide +kernel

theorem witness_SubtractionIsAdditionOfTheNegation :
    isNaN one = false ∧ isNaN qNaN = true ∧ isFinite one = true ∧ isNaN (fneg posZero) = false := by decide +kernel

theorem witness_CompareIsTheOrderOfValues : isNaN qNaN = true ∧ isFinite one = true ∧ isNaN posInf = false := by decide +kernel

theorem witness_SineAndCosineRefAreNearest :
    isFinite one = true ∧ isZero one = false ∧ 160 ∈ ladder ∧ trigAt (unitsOf (magBits one)) 0 160 ≠ none ∧
    trigAt (unitsOf (magBits one)) 1 160 ≠ none := by decide +kernel

theorem witness_PowerOfTenRefIsNearest :
    (isFinite one = true ∧ isFinite (fexp10Ref one) = true ∧ fracOf one = 0) ∧
    (isFinite 0x3FC3333333333333#64 = true ∧ isFinite (fexp10Ref 0x3FC3333333333333#64) = true ∧ 160 ∈ ladder ∧
      exp10At (floorOf 0x3FC3333333333333#64) (fracOf 0x3FC3333333333333#64) 160 ≠ none) := by decide +kernel

theorem witness_InvariantHoldsAtReset : 1 ≤ config.cntW := by decide

theorem witness_CounterConversionIsExact : 2 ^ 53 - 1 < 2 ^ 53 := by decide

theorem witness_NonShelfCoefficientFormulas :
    config.bpf = .constantPeak ∧ ({ config with bpf := .constantSkirt } : Config).bpf = .constantSkirt := ⟨rfl, rfl⟩

theorem witness_StepKeepsInvariant :
    Inv config (withActs [.command 0x53FF0000000000000#67] rated) ∧
    after (step (withActs [.command 0x53FF0000000000000#67] rated)) (fun _ => true) = true :=
  ⟨⟨rfl, rated_smootherOk, .inl rfl⟩, by decide +kernel⟩

theorem witness_ClockEdgeKeepsInvariant : Inv config rated := rated_inv

theorem witness_OneResponsePerProcessInOrder :
    rated.port.inFlight = none ∧ decodeWord 0x53FF0000000000000#67 = .ok (.process one) ∧
    after (step (withActs [.command 0x53FF0000000000000#67] rated)) (fun _ => true) = true ∧
    after (step (withActs [.command 0x24000000000000000#67] rated)) (fun _ => true) = true := by
  refine ⟨rfl, rfl, ?_, ?_⟩ <;> decide +kernel

/-- A ready block with and without a valid command, a beat held and taken, a command in flight that waits or completes. -/
theorem witness_HandshakeAcceptsOneCommandAtATime :
    rated.cmdReady = true ∧ (edgeOf false true 5#3 one false false).pins.rst = false ∧
    (rated.respond one).port = { inFlight := none, rsp := some one } ∧
    (rated.setInFlight (some ⟨0#67, 0⟩)).port.inFlight = some ⟨0#67, 0⟩ := by decide +kernel

theorem witness_CommandTakesEffectAllAtOnce :
    (rated.setInFlight (some ⟨0x24000000000000000#67, 0⟩)).port.inFlight = some ⟨0x24000000000000000#67, 0⟩ ∧
    (edgeOf false false 0#3 0#64 false true).pins.rst = false := ⟨rfl, rfl⟩

/-- With no waiting edge, and with one that the implementation may take when `LAT_MAX` is above 1. -/
theorem witness_PortLevelRefinesCommandLevel :
    rated.port = { inFlight := none, rsp := none } ∧
    after (runWord (5#3 ++ one) rated) (fun _ => true) = true ∧
    (edgeOf false true 5#3 one false false).pins.cmdValid = true ∧ (edgeOf false false 0#3 0#64 false true).completes = true ∧
    (∀ e ∈ [edgeOf false false 0#3 0#64 false false], e.pins.rst = false ∧ e.completes = false) ∧
    (1 < config.latMax → [edgeOf false false 0#3 0#64 false false].length < config.latMax) :=
  ⟨rfl, by decide +kernel, rfl, rfl, by decide +kernel, id⟩

theorem witness_AcceptedCommandCompletesWithinLatMax :
    (rated.setInFlight (some ⟨0#67, 0⟩)).port.inFlight = some ⟨0#67, 0⟩ ∧
    (List.replicate (max 1 config.latMax) (edgeOf false false 0#3 0#64 false false)).length = max 1 config.latMax ∧
    ∀ e ∈ List.replicate (max 1 config.latMax) (edgeOf false false 0#3 0#64 false false), e.pins.rst = false := by
  refine ⟨rfl, List.length_replicate, fun e he => ?_⟩
  rw [List.eq_of_mem_replicate he]; rfl

theorem witness_FaultBitClearedOnlyByReset :
    (State.setFault rated).fault = true ∧ ∀ e ∈ [edgeOf false true 5#3 one true true], e.pins.rst = false := by decide +kernel

/-- The other block has stopped; the one that steps goes on. -/
theorem witness_ChannelsAreIndependent :
    (0 : Nat) ≠ 1 ∧ ([.next rated, .refused .reservedOpcode] : List Result)[0]? = some (.next rated) := ⟨by decide, rfl⟩

/-- A run of three commands with two responses on a block with a rate. -/
theorem witness_RunOfCommandsIsTheStepsOfItsSequence :
    rated.port = { inFlight := none, rsp := none } ∧
    ∃ e, runCommands [0x53FF0000000000000#67, 0x24000000000000000#67, 0x50000000000000000#67] rated = .next e := ⟨rfl, _, rfl⟩

theorem witness_ResetEdgeWinsAndDropsEverything : (edgeOf true true 5#3 one true true).pins.rst = true := rfl

end Sys2Proof.Tests
end

section
/-! The invariant of the block (spec 10_state.md R33, R34; 20_memory.md R55): it holds after reset, and every step and every clock
edge keeps it, for every configuration whose counters have at least one bit. -/

namespace Sys2Proof.Machine

/-! ### The ramp length fits a counter (40_numerics.md R107) -/

/-- Magnitude bits from those of `1.0` on are worth at least one: `2^1074` units. -/
theorem two_pow_unitBits_le_unitsOf {m : Nat} (h : magBits one ≤ m) : 2 ^ unitBits ≤ unitsOf m := by
  have h1 : 1023 * 2 ^ 52 ≤ m := h
  have hexp : unitBits - 52 ≤ m / 2 ^ 52 - 1 := by unfold unitBits; omega
  have hnormal : unitsOf m = (2 ^ 52 + m % 2 ^ 52) * 2 ^ (m / 2 ^ 52 - 1) := if_neg (by omega)
  calc 2 ^ unitBits = 2 ^ 52 * 2 ^ (unitBits - 52) := (pow_mul_pow_sub 2 (by decide)).symm
    _ ≤ (2 ^ 52 + m % 2 ^ 52) * 2 ^ (m / 2 ^ 52 - 1) :=
      Nat.mul_le_mul (Nat.le_add_right _ _) (Nat.pow_le_pow_right (by decide) hexp)
    _ = unitsOf m := hnormal.symm

/-- A pattern that compares at least `1.0` is positive, with magnitude bits at least those of `1.0`. -/
theorem magBits_one_le_of_fge_one {x : F64} (h : fge x one = true) : magBits one ≤ magBits x := by
  have hkey : orderKey one ≤ orderKey x := by
    simp only [fge, Bool.and_eq_true, decide_eq_true_eq] at h
    exact h.2
  have hone : orderKey one = magBits one := rfl
  have hpos : 0 < magBits one := by decide
  rw [hone] at hkey
  unfold orderKey at hkey
  split at hkey <;> omega

theorem one_le_maxCount {c : Config} (hw : 1 ≤ c.cntW) : 1 ≤ maxCount c := by
  have : 2 ^ 1 ≤ 2 ^ c.cntW := Nat.pow_le_pow_right (by decide) hw
  unfold maxCount
  omega

theorem one_le_rampLen {c : Config} (hw : 1 ≤ c.cntW) (r : F64) : 1 ≤ rampLen c r := by
  have hmax := one_le_maxCount hw
  cases hge : fge (fmul c.tSmooth r) one with
  | false => simp [rampLen, hge]
  | true =>
    have hwhole : 1 ≤ wholePart (magBits (fmul c.tSmooth r)) :=
      (Nat.one_le_div_iff (Nat.two_pow_pos _)).2 (two_pow_unitBits_le_unitsOf (magBits_one_le_of_fge_one hge))
    simp only [rampLen, hge, Bool.not_true, Bool.false_eq_true, if_false]
    split <;> omega

theorem rampLen_lt_two_pow {c : Config} (hw : 1 ≤ c.cntW) (r : F64) : rampLen c r < 2 ^ c.cntW := by
  have hle := rampLen_le c r hw
  have hmax := one_le_maxCount hw
  unfold maxCount at hle hmax
  omega

/-! ### The part of the invariant that speaks of the registers -/

/-- R33 and R34: the invariant without its clause about the ports. -/
def RegsOk (c : Config) (s : State) : Prop := Consistent c s ∧ SmootherOk c s

theorem inv_iff {c : Config} {s : State} : Inv c s ↔ RegsOk c s ∧ PortOk s := and_assoc.symm

theorem Inv.of_inFlight_none {c : Config} {s : State} (h : RegsOk c s) (hf : s.port.inFlight = none) : Inv c s :=
  inv_iff.2 ⟨h, .inl hf⟩

/-- The port clause read with a command in flight: no response is on offer. -/
theorem PortOk.rsp_eq_none {s : State} {f : InFlight} (h : PortOk s) (hf : s.port.inFlight = some f) : s.port.rsp = none :=
  h.resolve_left (by simp [hf])

/-- R34 b follows from R33. -/
theorem Consistent.coef_eq_none_iff {c : Config} {s : State} (h : Consistent c s) : s.coef = none ↔ s.rate = none := by
  rw [h, derivedCoef, Option.map_eq_none_iff]

section
variable {c : Config} {s t : State}

/-- The registers' part depends on the parameters, the coefficients and the smoother alone. -/
theorem RegsOk.congr (h : RegsOk c s) (hd : derivedCoef c t = derivedCoef c s) (hk : t.coef = s.coef)
    (hc : t.cutHz = s.cutHz) (hm : t.sm = s.sm) : RegsOk c t := by
  simpa only [RegsOk, Consistent, SmootherOk, hd, hk, hc, hm] using h

theorem RegsOk.setInFlight (h : RegsOk c s) (f : Option InFlight) : RegsOk c (s.setInFlight f) := h

theorem RegsOk.setActs (h : RegsOk c s) (as : List HostAct) : RegsOk c (s.setActs as) := h

theorem RegsOk.markRefusal (h : RegsOk c s) (r : Refusal) : RegsOk c (s.markRefusal r) := h

theorem RegsOk.deliver (h : RegsOk c s) : RegsOk c s.deliver := h.congr (by simp) (by simp) (by simp) (by simp)

theorem RegsOk.takeBeat (h : RegsOk c s) (ready : Bool) : RegsOk c (takeBeat ready s) := by
  cases ready with
  | false => exact h
  | true => exact h.deliver

/-- Deriving restores R33 whatever the coefficients were, and touches no counter. -/
theorem RegsOk.derive (h : SmootherOk c s) : RegsOk c (s.derive c) := ⟨rfl, h⟩

/-! ### Every command keeps it -/

theorem RegsOk.setRateOp (hw : 1 ≤ c.cntW) (h : RegsOk c s) (r : F64) : RegsOk c (setRateOp c r s) := by
  obtain ⟨-, hcut, -, -, -⟩ := h
  have hcur : s.cutHz = (s.sm.reclock c r).cur := by simpa using hcut
  have hrem : (s.sm.reclock c r).rem ≤ (s.sm.reclock c r).len := by
    by_cases hm : s.sm.rem = 0
    · simp [reclock_atRest c r hm, hm]
    · simp [reclock_moving c r hm]
  refine .derive ⟨hcur, hrem, ?_, ?_⟩
  · simpa using one_le_rampLen hw r
  · simpa using rampLen_lt_two_pow hw r

/-- A new target starts a full ramp and derives nothing (R123). -/
theorem RegsOk.setCutOp (h : RegsOk c s) (x : F64) : RegsOk c (setCutOp x s) := by
  obtain ⟨hcons, hcut, -, hlen, hwidth⟩ := h
  exact ⟨hcons, hcut, le_rfl, hlen, hwidth⟩

theorem RegsOk.setQOp (h : RegsOk c s) (v : F64) : RegsOk c (setQOp c v s) := .derive h.2

theorem RegsOk.setGainOp (h : RegsOk c s) (g : F64) : RegsOk c (setGainOp c g s) := .derive h.2

theorem RegsOk.setTypeOp (h : RegsOk c s) (y : FilterType) : RegsOk c (setTypeOp c y s) := .derive h.2

/-- Step 1 of PROCESS: an advance takes a step off the ramp, and `cutHz` follows `sm.cur` (R141, R172). -/
theorem RegsOk.smoothStep (h : RegsOk c s) : RegsOk c (smoothStep c s) := by
  obtain ⟨-, hstep⟩ | ⟨-, hstep⟩ := smoothStep_cases c s
  · rwa [hstep]
  · obtain ⟨-, -, hrem, hlen, hwidth⟩ := h
    rw [hstep]
    exact .derive ⟨rfl, (Nat.sub_le _ _).trans hrem, hlen, hwidth⟩

theorem RegsOk.processOp (h : RegsOk c s) (u : F64) : RegsOk c (processOp c u s) := by
  obtain ⟨k, -, hp⟩ | ⟨-, hp⟩ := processOp_cases c s u
  all_goals
    rw [hp]
    exact h.smoothStep.congr rfl rfl rfl rfl

theorem RegsOk.execWith_next {i : Instr} (hw : 1 ≤ c.cntW) (h : RegsOk c s) (hx : execWith c i s = .next t) : RegsOk c t := by
  obtain ⟨r, -, rfl⟩ | ⟨x, -, rfl⟩ | ⟨v, -, rfl⟩ | ⟨g, -, rfl⟩ | ⟨sel, y, -, -, rfl⟩ | ⟨u, -, rfl⟩ := execWith_next_cases hx
  · exact h.setRateOp hw r
  · exact h.setCutOp x
  · exact h.setQOp v
  · exact h.setGainOp g
  · exact h.setTypeOp y
  · exact h.processOp u

/-! ### Every command leaves the command port alone (20_memory.md R55) -/

@[simp] theorem smoothStep_port : (smoothStep c s).port = s.port := by
  obtain ⟨-, hstep⟩ | ⟨-, hstep⟩ := smoothStep_cases c s
  · rw [hstep]
  · rw [hstep]; rfl

@[simp] theorem processOp_inFlight (u : F64) : (processOp c u s).port.inFlight = s.port.inFlight := by
  obtain ⟨k, -, hp⟩ | ⟨-, hp⟩ := processOp_cases c s u <;> rw [hp]
  · simp [finishSample_port]
  · simp [finishUnspecified_port]

theorem execWith_next_inFlight {i : Instr} (hx : execWith c i s = .next t) : t.port.inFlight = s.port.inFlight := by
  obtain ⟨r, -, rfl⟩ | ⟨x, -, rfl⟩ | ⟨v, -, rfl⟩ | ⟨g, -, rfl⟩ | ⟨sel, y, -, -, rfl⟩ | ⟨u, -, rfl⟩ := execWith_next_cases hx
  · rfl
  · rfl
  · rfl
  · rfl
  · rfl
  · exact processOp_inFlight u

/-- A command that runs with nothing else in flight ends in the invariant, whether it responds or not. -/
theorem inv_of_execWith_next {i : Instr} (hw : 1 ≤ c.cntW) (h : RegsOk c s) (hf : s.port.inFlight = none)
    (hx : execWith c i s = .next t) : Inv c t :=
  .of_inFlight_none (h.execWith_next hw hx) ((execWith_next_inFlight hx).trans hf)

/-- A command completes with its effect, or is a reserved word and leaves the model's mark alone (30_encoding.md R78). -/
theorem completeWordBy_execWith_cases (c : Config) (w : CmdWord) (s : State) :
    (∃ i, decodeWord w = .ok i ∧ execWith c i s = .next (completeWordBy (execWith c) w s)) ∨
    (∃ r, completeWordBy (execWith c) w s = s.markRefusal r) := by
  cases hd : decodeWord w with
  | error x => exact .inr ⟨refusalOf x, by simp [completeWordBy, hd, ignoreWord]⟩
  | ok i =>
    cases hx : execWith c i s with
    | next t => exact .inl ⟨i, rfl, by simp [completeWordBy, hd, absorb, hx]⟩
    | fault f => exact absurd hx (execWith_ne_fault c i s f)
    | refused r => exact .inr ⟨r, by simp [completeWordBy, hd, absorb, hx, ignoreWord]⟩

theorem inv_completeWordBy (hw : 1 ≤ c.cntW) (h : RegsOk c s) (hf : s.port.inFlight = none) (w : CmdWord) :
    Inv c (completeWordBy (execWith c) w s) := by
  obtain ⟨i, -, hx⟩ | ⟨r, hr⟩ := completeWordBy_execWith_cases c w s
  · exact inv_of_execWith_next hw h hf hx
  · rw [hr]
    exact .of_inFlight_none (h.markRefusal r) hf

/-! ### Reset, step and clock edge -/

/-- The reset value of `sm.len` is 1, which fits a counter of at least one bit. -/
theorem regsOk_resetWith (hw : 1 ≤ c.cntW) : RegsOk c (State.resetWith c) :=
  ⟨rfl, rfl, Nat.zero_le 1, le_rfl, Nat.one_lt_two_pow (Nat.one_le_iff_ne_zero.1 hw)⟩

theorem inv_resetWith (hw : 1 ≤ c.cntW) : Inv c (State.resetWith c) := .of_inFlight_none (regsOk_resetWith hw) rfl

/-- The fields a reset edge keeps are the model's own, of which the invariant says nothing. -/
theorem inv_resetBlock (hw : 1 ≤ c.cntW) (s : State) : Inv c (s.resetBlock c) :=
  .of_inFlight_none ((regsOk_resetWith hw).congr rfl rfl rfl rfl) rfl

theorem stepWith_preserves_inv (hw : 1 ≤ c.cntW) (h : Inv c s) (hs : stepWith c s = .next t) : Inv c t := by
  have ⟨hregs, _⟩ := inv_iff.1 h
  obtain ⟨f, i, -, -, hx⟩ | ⟨-, -, rfl⟩ | ⟨as, -, -, rfl⟩ | ⟨as, hf, -, rfl⟩ | ⟨w, as, i, hf, -, -, hx⟩ :=
    nextAct_next_cases hs
  · exact inv_of_execWith_next hw (hregs.setInFlight none).deliver (by simp) hx
  · exact h
  · exact inv_resetBlock hw _
  · exact .of_inFlight_none (hregs.setActs as).deliver (by simpa using hf)
  · exact inv_of_execWith_next hw (hregs.setActs as).deliver (by simpa using hf) hx

theorem clockEdgeWith_preserves_inv (hw : 1 ≤ c.cntW) (h : Inv c s) (e : Edge) : Inv c (clockEdgeWith c e s) := by
  obtain ⟨hregs, hport⟩ := inv_iff.1 h
  unfold clockEdgeWith
  obtain ⟨-, he⟩ | ⟨f, -, he⟩ | ⟨f, hf, he⟩ | ⟨hf, he⟩ | ⟨-, hrsp, he⟩ := clockEdgeBy_cases c (execWith c) e s <;> rw [he]
  · exact inv_resetBlock hw _
  · exact inv_completeWordBy hw (hregs.setInFlight none) rfl f.word
  · exact inv_iff.2 ⟨hregs.setInFlight _, .inr (hport.rsp_eq_none hf)⟩
  · refine .of_inFlight_none (hregs.takeBeat _) ?_
    cases e.pins.rspReady <;> simpa using hf
  · exact inv_iff.2 ⟨hregs.setInFlight _, .inr hrsp⟩

end

/-- Settles O51: one case for each thing a step can do; a command keeps the registers' part and leaves the command port alone. -/
theorem stepKeepsInvariant : Obligations.StepKeepsInvariant := by
  have main : ∀ (c : Config) (s t : State), 1 ≤ c.cntW → Inv c s → stepWith c s = .next t →
      Inv c t ∧ (t.coef = none ↔ t.rate = none) := fun c s t hw h hs =>
    have ht := stepWith_preserves_inv hw h hs
    ⟨ht, ht.1.coef_eq_none_iff⟩
  exact ⟨fun s t h hs => main config s t (by decide) h (stepWith_config s ▸ hs), main⟩

/-- Settles O52: one case for each thing an edge can do; the port clause carries a waiting command and an accepted one. -/
theorem clockEdgeKeepsInvariant : Obligations.ClockEdgeKeepsInvariant :=
  ⟨fun e s h => clockEdgeWith_config e s ▸ clockEdgeWith_preserves_inv (by decide) h e,
    fun _ e _ hw h => clockEdgeWith_preserves_inv hw h e⟩

/-- Settles O50: the default block is one case of the reset of a block with any parameters. -/
theorem invariantHoldsAtReset : Obligations.InvariantHoldsAtReset :=
  ⟨inv_resetWith (by decide), fun _ => inv_resetWith⟩

end Sys2Proof.Machine
end

section
/-! Registers, their reset values and the status outputs (spec 10_state.md R24 to R32, R35, R37): which command writes which
register, and how the two status outputs follow. -/

namespace Sys2Proof.Machine

/-! ### What the commands leave unchanged -/

section
variable (c : Config) (s : State)

/-- R141: step 1 of PROCESS writes the smoother, the cutoff and the coefficients, and no other field. -/
theorem smoothStep_writes :
    smoothStep c s = { s with
      cutHz := (smoothStep c s).cutHz, coef := (smoothStep c s).coef, sm := (smoothStep c s).sm } := by
  obtain ⟨-, hstep⟩ | ⟨-, hstep⟩ := smoothStep_cases c s
  · rw [hstep]
  · rw [hstep]
    rfl

@[simp] theorem smoothStep_rate : (smoothStep c s).rate = s.rate := by rw [smoothStep_writes]
@[simp] theorem smoothStep_ftype : (smoothStep c s).ftype = s.ftype := by rw [smoothStep_writes]
@[simp] theorem smoothStep_q : (smoothStep c s).q = s.q := by rw [smoothStep_writes]
@[simp] theorem smoothStep_gainDb : (smoothStep c s).gainDb = s.gainDb := by rw [smoothStep_writes]
@[simp] theorem smoothStep_delay : (smoothStep c s).delay = s.delay := by rw [smoothStep_writes]
@[simp] theorem smoothStep_fault : (smoothStep c s).fault = s.fault := by rw [smoothStep_writes]

/-- R141, R172: a smoother at rest stays as it is, a moving one advances. -/
theorem smoothStep_sm : (smoothStep c s).sm = if s.sm.rem = 0 then s.sm else s.sm.advance := by
  obtain ⟨hrem, hstep⟩ | ⟨hrem, hstep⟩ := smoothStep_cases c s <;> simp [hstep, hrem]

@[simp] theorem smoothStep_tgt : (smoothStep c s).sm.tgt = s.sm.tgt := by rw [smoothStep_sm]; split <;> rfl
@[simp] theorem smoothStep_step : (smoothStep c s).sm.step = s.sm.step := by rw [smoothStep_sm]; split <;> rfl
@[simp] theorem smoothStep_len : (smoothStep c s).sm.len = s.sm.len := by rw [smoothStep_sm]; split <;> rfl
@[simp] theorem smoothStep_rem : (smoothStep c s).sm.rem = s.sm.rem - 1 := by rw [smoothStep_sm]; split <;> simp [*]

/-- The smoother is written by step 1 of PROCESS alone. -/
@[simp] theorem processOp_sm (u : F64) : (processOp c u s).sm = (smoothStep c s).sm := by
  obtain ⟨k, -, hp⟩ | ⟨-, hp⟩ := processOp_cases c s u <;> rw [hp] <;> rfl

end

/-! ### Commands that go on from every state -/

theorem exec_setRate (r : F64) (s : State) : exec (.setRate r) s = .next (setRateOp config r s) := rfl

theorem exec_setCut (h : F64) (s : State) : exec (.setCut h) s = .next (setCutOp h s) := rfl

theorem exec_process (u : F64) (s : State) : exec (.process u) s = .next (processOp config u s) := rfl

/-! ### The status outputs (R32) -/

section
variable {s : State}

theorem stAtRest_eq_true_iff : s.stAtRest = true ↔ s.sm.rem = 0 := beq_iff_eq

theorem stAtRest_eq_false_iff : s.stAtRest = false ↔ s.sm.rem ≠ 0 := beq_eq_false_iff_ne

theorem stRateValid_eq_true_iff : s.stRateValid = true ↔ s.rate ≠ none := Option.isSome_iff_ne_none

end

/-! ### The obligations -/

/-- Settles O31: a case for each command that goes on, whose frame gives every clause. PROCESS without coefficients is the one
that sets the fault bit. -/
theorem registersChangeOnlyByTheirCommands : Obligations.RegistersChangeOnlyByTheirCommands := by
  intro i s t hx
  obtain ⟨r, rfl, rfl⟩ | ⟨x, rfl, rfl⟩ | ⟨v, rfl, rfl⟩ | ⟨g, rfl, rfl⟩ | ⟨sel, y, rfl, -, rfl⟩ | ⟨u, rfl, rfl⟩ :=
    exec_next_cases hx
  · simp [setRateOp]
  · simp [setCutOp]
  · simp [setQOp]
  · simp [setGainOp]
  · simp [setTypeOp]
  · obtain ⟨k, -, hp⟩ | ⟨hnone, hp⟩ := processOp_cases config s u
    · simp [hp, finishSample]
    · simp [hp, hnone, finishUnspecified, finishSample]

/-- The rate is written by SETRATE alone, which stores one: once valid it stays so, until a reset. -/
theorem stRateValid_of_exec_next {i : Instr} {s t : State} (hv : s.stRateValid = true) (hx : exec i s = .next t) :
    t.stRateValid = true := by
  by_cases hrate : t.rate = s.rate
  · rwa [State.stRateValid, hrate]
  · have ⟨bySetRate, _⟩ := registersChangeOnlyByTheirCommands i s t hx
    obtain ⟨r, rfl⟩ := bySetRate hrate
    rw [exec_setRate] at hx
    cases hx
    rfl

/-- Settles O30: each movement of a status output is what one command does to `sm.rem` or to `rate`. -/
theorem statusOutputsFollowTheState : Obligations.StatusOutputsFollowTheState := by
  refine ⟨fun s => ⟨stAtRest_eq_true_iff, stRateValid_eq_true_iff⟩, rfl, rfl, ?_, ?_, ?_,
    fun i s t => stRateValid_of_exec_next⟩
  · intro h s t hlen hx
    rw [exec_setCut] at hx
    cases hx
    exact stAtRest_eq_false_iff.2 (Nat.one_le_iff_ne_zero.1 hlen)
  · intro u s t hrem hx
    rw [exec_process] at hx
    cases hx
    simp [stAtRest_eq_true_iff, hrem]
  · intro r s t hx
    rw [exec_setRate] at hx
    cases hx
    rfl

/-- Settles O12: the reset state of the default configuration, register by register. -/
theorem resetStateValues : Obligations.ResetStateValues := ⟨rfl, rfl, rfl, rfl, rfl, rfl, rfl, rfl, rfl⟩

end Sys2Proof.Machine
end

section
/-! Steps of the host's sequence (spec 20_memory.md R50, R52 to R54): the command a step runs, and the responses the host has seen after
it. -/

namespace Sys2Proof.Machine

/-! ### Which command a step runs (R50, R53) -/

section
variable {run : Meaning} {s : State} {w : CmdWord} {i : Instr}

theorem runWordBy_ok (hd : decodeWord w = .ok i) : runWordBy run w s = run i s := by simp [runWordBy, hd]

/-- A meaning lets a word go on only when the word decodes. -/
theorem runWordBy_next {t : State} (h : runWordBy run w s = .next t) :
    ∃ i, decodeWord w = .ok i ∧ run i s = .next t := by
  cases hd : decodeWord w with
  | ok i => exact ⟨i, rfl, (runWordBy_ok hd).symm.trans h⟩
  | error r => simp [runWordBy, hd, refuseOutcome] at h

theorem nextAct_inFlight {c : Config} {f : InFlight} (hf : s.port.inFlight = some f) :
    nextAct c run s = runWordBy run f.word (s.setInFlight none).deliver := by simp [nextAct, hf]

theorem nextAct_command {c : Config} {as : List HostAct} (hf : s.port.inFlight = none)
    (ha : s.host.acts = .command w :: as) : nextAct c run s = runWordBy run w (acceptFrom as s) := by
  simp [nextAct, hf, ha]

theorem nextAct_take {c : Config} {as : List HostAct} (hf : s.port.inFlight = none) (ha : s.host.acts = .take :: as) :
    nextAct c run s = .next (s.setActs as).deliver := by simp [nextAct, hf, ha]

theorem step_inFlight {f : InFlight} (hf : s.port.inFlight = some f) (hd : decodeWord f.word = .ok i) :
    step s = exec i (s.setInFlight none).deliver := (nextAct_inFlight hf).trans (runWordBy_ok hd)

theorem step_command {as : List HostAct} (hf : s.port.inFlight = none) (ha : s.host.acts = .command w :: as)
    (hd : decodeWord w = .ok i) : step s = exec i (acceptFrom as s) := (nextAct_command hf ha).trans (runWordBy_ok hd)

end

/-- Taking the placed word off again leaves the host's sequence as it was before the placing. -/
theorem acceptFrom_placeWord (s : State) (nbits v : Nat) :
    acceptFrom s.host.acts (placeWord s nbits v) = (s.setInFlight none).deliver := rfl

/-- A table number that decodes is a word of 67 bits. -/
theorem decodeWord_of_decodeTableWord {nbits v : Nat} {i : Instr} (h : decodeTableWord nbits v = some i) :
    decodeWord (BitVec.ofNat 67 (v % 2 ^ nbits)) = .ok i := by
  simp only [decodeTableWord] at h
  split at h
  · cases hd : decodeWord (BitVec.ofNat 67 (v % 2 ^ nbits)) <;> simp_all
  · cases h

/-! ### The responses seen (R54) -/

section
variable (s : State)

@[simp] theorem State.deliver_responses : s.deliver.responses = s.responses := by simp [State.responses]

@[simp] theorem acceptFrom_responses (as : List HostAct) : (acceptFrom as s).responses = s.responses :=
  State.deliver_responses _

@[simp] theorem acceptFrom_rsp (as : List HostAct) : (acceptFrom as s).port.rsp = none := State.deliver_rsp _

@[simp] theorem smoothStep_host (c : Config) : (smoothStep c s).host = s.host := by rw [smoothStep_writes]

/-- R143, R54: the sample that enters `y1` is the one put on offer. -/
theorem finishSample_responses (u out : F64) :
    (finishSample u out s).responses = s.host.taken ++ [(finishSample u out s).delay.y1] := rfl

/-- R146: the unspecified output is the response and enters `y1` too. -/
theorem finishUnspecified_responses (u : F64) :
    (finishUnspecified u s).responses = s.host.taken ++ [(finishUnspecified u s).delay.y1] := rfl

theorem processOp_responses (c : Config) (u : F64) :
    (processOp c u s).responses = s.host.taken ++ [(processOp c u s).delay.y1] := by
  obtain ⟨k, -, hp⟩ | ⟨-, hp⟩ := processOp_cases c s u
  · rw [hp, finishSample_responses, smoothStep_host]
  · rw [hp, finishUnspecified_responses, smoothStep_host]

theorem State.responses_of_rsp_none {s : State} (h : s.port.rsp = none) : s.responses = s.host.taken := by
  simp [State.responses, h]

end

/-- R52, R54: a setter touches neither the response port nor the host's side. -/
theorem exec_setter_responses {i : Instr} {s t : State} (hi : ∀ u, i ≠ .process u) (hx : exec i s = .next t) :
    t.responses = s.responses := by
  obtain ⟨r, -, rfl⟩ | ⟨x, -, rfl⟩ | ⟨v, -, rfl⟩ | ⟨g, -, rfl⟩ | ⟨sel, y, -, -, rfl⟩ | ⟨u, rfl, -⟩ := exec_next_cases hx
  · rfl
  · rfl
  · rfl
  · rfl
  · rfl
  · exact absurd rfl (hi u)

/-! ### The obligations -/

/-- Settles O6: the two places a step takes its command from. -/
theorem stepRunsDecodedCommand : Obligations.StepRunsDecodedCommand :=
  ⟨fun _ _ _ _ hf ha hd => step_command hf ha hd, fun _ _ _ hf hd => step_inFlight hf hd⟩

/-- Settles O7: the placed word is the head of the sequence, and nothing is in flight before it. -/
theorem placedWordRunsNext : Obligations.PlacedWordRunsNext := by
  intro s v i h
  have hstep : step (placeWord s 72 v) = exec i (acceptFrom s.host.acts (placeWord s 72 v)) :=
    step_command rfl rfl (decodeWord_of_decodeTableWord h)
  rwa [acceptFrom_placeWord] at hstep

/-- Settles O53: the command starts with no response on offer, and PROCESS alone puts one there. -/
theorem oneResponsePerProcessInOrder : Obligations.OneResponsePerProcessInOrder := by
  intro s t w as i hf ha hd hs
  have hx : exec i (acceptFrom as s) = .next t := step_command hf ha hd ▸ hs
  constructor
  · rintro ⟨u, rfl⟩
    rw [exec_process] at hx
    cases hx
    rw [processOp_responses, ← State.responses_of_rsp_none (acceptFrom_rsp s as), acceptFrom_responses]
  · intro hi
    rw [exec_setter_responses hi hx, acceptFrom_responses]

end Sys2Proof.Machine
end

section
/-! Repeated setters (spec 20_memory.md R59): every setter but SETCUT writes a function of its operand and of registers it leaves alone,
so that its second execution writes what stands there. -/

namespace Sys2Proof.Machine

/-- R173: a second re-clock to the same rate plans the ramp the first one planned. -/
theorem reclock_reclock (c : Config) (r : F64) (m : Smoother) : (m.reclock c r).reclock c r = m.reclock c r := by
  by_cases hm : m.rem = 0
  · simp [reclock_atRest, hm]
  · rw [reclock_moving c r hm]
    by_cases hn : rampLen c r = 0
    · rw [reclock_atRest c r hn]
    · rw [reclock_moving c r hn]

section
variable (c : Config) (s : State)

theorem setRateOp_setRateOp (r : F64) : setRateOp c r (setRateOp c r s) = setRateOp c r s := by
  have hsm : (setRateOp c r s).sm.reclock c r = (setRateOp c r s).sm := reclock_reclock c r s.sm
  rw [setRateOp, hsm]
  rfl

theorem setQOp_setQOp (v : F64) : setQOp c v (setQOp c v s) = setQOp c v s := rfl

theorem setGainOp_setGainOp (g : F64) : setGainOp c g (setGainOp c g s) = setGainOp c g s := rfl

theorem setTypeOp_setTypeOp (y : FilterType) : setTypeOp c y (setTypeOp c y s) = setTypeOp c y s := rfl

end

/-- SETTYPE goes on with every operand that names a filter type (R126). -/
theorem exec_setType {sel : BitVec 3} {y : FilterType} (hy : typeOfCode sel = some y) (s : State) :
    exec (.setType sel) s = .next (setTypeOp config y s) := by
  simp [exec, execSetType, setTypeCode, hy]

/-- Settles O19: one idempotence for each of the four setters. -/
theorem repeatedSetterChangesNothing : Obligations.RepeatedSetterChangesNothing := by
  intro i s t hProcess hSetCut hx
  obtain ⟨r, rfl, rfl⟩ | ⟨x, rfl, -⟩ | ⟨v, rfl, rfl⟩ | ⟨g, rfl, rfl⟩ | ⟨sel, y, rfl, hy, rfl⟩ | ⟨u, rfl, -⟩ :=
    exec_next_cases hx
  · rw [exec_setRate, setRateOp_setRateOp]
  · exact absurd rfl (hSetCut x)
  · exact congrArg Host.Outcome.next (setQOp_setQOp config s v)
  · exact congrArg Host.Outcome.next (setGainOp_setGainOp config s g)
  · rw [exec_setType hy, setTypeOp_setTypeOp]
  · exact absurd rfl (hProcess u)

end Sys2Proof.Machine
end

section
/-! Runs (spec 20_memory.md R53, R54, R67): the run of a list of commands is the strict run of the host's sequence made of them. No
command reads or writes the host's side, so it may be replaced under a command. -/

namespace Sys2Proof.Machine

/-- The same block with another host's side: the rest of its sequence, and the responses taken. -/
def State.withHost (h : HostSide) (s : State) : State := { s with host := h }

/-! ### No command touches the host's side -/

section
variable (h : HostSide) (c : Config) (s : State)

@[simp] theorem State.withHost_coef : (s.withHost h).coef = s.coef := rfl

theorem smoothStep_withHost : smoothStep c (s.withHost h) = (smoothStep c s).withHost h := by
  obtain ⟨hrem, hstep⟩ | ⟨hrem, hstep⟩ := smoothStep_cases c s
  · rw [hstep, smoothStep_atRest c (s.withHost h) hrem]
  · rw [hstep, smoothStep_moving c (s.withHost h) hrem]
    rfl

theorem processOp_withHost (u : F64) : processOp c u (s.withHost h) = (processOp c u s).withHost h := by
  simp only [processOp, smoothStep_withHost, State.withHost_coef]
  cases (smoothStep c s).coef with
  | none => rfl
  | some k => rfl

theorem lacksCoef_withHost (i : Instr) : lacksCoef c i (s.withHost h) = lacksCoef c i s := by
  cases i with
  | process u => simp only [lacksCoef, smoothStep_withHost, State.withHost_coef]
  | _ => rfl

end

section
variable (h : HostSide) {s t : State}

theorem exec_withHost {i : Instr} (hx : exec i s = .next t) : exec i (s.withHost h) = .next (t.withHost h) := by
  obtain ⟨r, rfl, rfl⟩ | ⟨x, rfl, rfl⟩ | ⟨v, rfl, rfl⟩ | ⟨g, rfl, rfl⟩ | ⟨sel, y, rfl, hy, rfl⟩ | ⟨u, rfl, rfl⟩ :=
    exec_next_cases hx
  · rfl
  · rfl
  · rfl
  · rfl
  · exact exec_setType hy _
  · rw [exec_process, processOp_withHost]

/-- The strict reading goes on exactly where the guard of R146 lets the meaning go on. -/
theorem strictExec_next_iff {i : Instr} : strictExec i s = .next t ↔ lacksCoef config i s = false ∧ exec i s = .next t := by
  cases hl : lacksCoef config i s <;> simp [strictExec, guarded, hl, faultOutcome]

theorem strictExec_withHost {i : Instr} (hx : strictExec i s = .next t) :
    strictExec i (s.withHost h) = .next (t.withHost h) := by
  obtain ⟨hl, hx⟩ := strictExec_next_iff.1 hx
  exact strictExec_next_iff.2 ⟨lacksCoef_withHost h config s i ▸ hl, exec_withHost h hx⟩

theorem runWordBy_strictExec_withHost {w : CmdWord} (hx : runWordBy strictExec w s = .next t) :
    runWordBy strictExec w (s.withHost h) = .next (t.withHost h) := by
  obtain ⟨i, hd, hx⟩ := runWordBy_next hx
  rw [runWordBy_ok hd, strictExec_withHost h hx]

theorem runWordBy_strictExec_inFlight {w : CmdWord} (hx : runWordBy strictExec w s = .next t) :
    t.port.inFlight = s.port.inFlight := by
  obtain ⟨i, -, hx⟩ := runWordBy_next hx
  exact execWith_next_inFlight (execWith_config i s ▸ (strictExec_next_iff.1 hx).2)

end

/-! ### The run and its steps -/

/-- A run of one more command: the command, then the rest of the run on what it leaves once its response is delivered. -/
theorem runCommands_cons_next {w : CmdWord} {ws : List CmdWord} {s : State} {e : RunEnd}
    (h : runCommands (w :: ws) s = .next e) :
    ∃ t e', runWordBy strictExec w s = .next t ∧ runCommands ws t.deliver = .next e' ∧ e = e'.cons t := by
  rw [runCommands] at h
  cases hx : runWordBy strictExec w s with
  | next t =>
    rw [hx] at h
    cases hr : runCommands ws t.deliver <;> simp_all
  | fault f => simp [hx] at h
  | refused r => simp [hx] at h

theorem strictRun_succ_of_next {n : Nat} {s t : State} (h : strictStep s = .next t) :
    strictRun (n + 1) s = strictRun n t := by rw [strictRun, h]

/-- The host's side with the given commands and a last taking of the response still to come. -/
def hostFor (ws : List CmdWord) (taken : List F64) : HostSide where
  acts := ws.map .command ++ [.take]
  taken := taken

/-- Delivery moves the response on offer behind those taken, whatever the rest of the host's side is. -/
theorem deliver_withHost (as : List HostAct) (taken : List F64) (s : State) :
    (s.withHost { acts := as, taken := taken }).deliver =
      s.deliver.withHost { acts := as, taken := taken ++ s.port.rsp.toList } := by
  unfold State.deliver
  cases hr : s.port.rsp <;> simp [State.withHost, hr]

theorem strictStep_hostFor_nil {s : State} (hf : s.port.inFlight = none) (taken : List F64) :
    strictStep (s.withHost (hostFor [] taken)) =
      .next (s.deliver.withHost { acts := [], taken := taken ++ s.port.rsp.toList }) := by
  have htake : strictStep (s.withHost (hostFor [] taken)) = .next (s.withHost { acts := [], taken := taken }).deliver :=
    nextAct_take hf rfl
  rw [htake, deliver_withHost]

theorem strictStep_hostFor_cons {s t : State} (hf : s.port.inFlight = none) {w : CmdWord}
    (hx : runWordBy strictExec w s.deliver = .next t) (ws : List CmdWord) (taken : List F64) :
    strictStep (s.withHost (hostFor (w :: ws) taken)) =
      .next (t.withHost (hostFor ws (taken ++ s.port.rsp.toList))) := by
  have hcommand : strictStep (s.withHost (hostFor (w :: ws) taken)) =
      runWordBy strictExec w (s.withHost (hostFor ws taken)).deliver := nextAct_command hf rfl
  rw [hcommand, hostFor, deliver_withHost]
  exact runWordBy_strictExec_withHost _ hx

/-- The simulation behind R67. A response still on offer at the start is delivered by the first step, as the run's own responses are by
the step after the one that made them. -/
theorem strictRun_hostFor {ws : List CmdWord} {s : State} {e : RunEnd} (hf : s.port.inFlight = none)
    (h : runCommands ws s.deliver = .next e) (taken : List F64) :
    strictRun (ws.length + 1) (s.withHost (hostFor ws taken)) =
      .next (e.final.withHost { acts := [], taken := taken ++ s.port.rsp.toList ++ e.responses }) := by
  induction ws generalizing s e taken with
  | nil =>
    cases h
    rw [List.length_nil, strictRun_succ_of_next (strictStep_hostFor_nil hf taken), List.append_nil]
    rfl
  | cons w ws ih =>
    obtain ⟨t, e', hx, hrest, rfl⟩ := runCommands_cons_next h
    have ht : t.port.inFlight = none := by rw [runWordBy_strictExec_inFlight hx, State.deliver_inFlight, hf]
    rw [List.length_cons, strictRun_succ_of_next (strictStep_hostFor_cons hf hx ws taken), ih ht hrest]
    simp [RunEnd.cons]

/-- R67: a run leaves one pair of status outputs for each command, and nothing outstanding. -/
theorem runCommands_next_end {ws : List CmdWord} {s : State} {e : RunEnd} (hf : s.port.inFlight = none)
    (hr : s.port.rsp = none) (h : runCommands ws s = .next e) :
    e.statuses.length = ws.length ∧ e.final.port.inFlight = none ∧ e.final.port.rsp = none := by
  induction ws generalizing s e with
  | nil => cases h; exact ⟨rfl, hf, hr⟩
  | cons w ws ih =>
    obtain ⟨t, e', hx, hrest, rfl⟩ := runCommands_cons_next h
    have ht : t.deliver.port.inFlight = none := by rw [State.deliver_inFlight, runWordBy_strictExec_inFlight hx, hf]
    obtain ⟨hlen, hend⟩ := ih ht t.deliver_rsp hrest
    exact ⟨congrArg (· + 1) hlen, hend⟩

/-- With nothing on offer there is nothing to deliver (R55). -/
theorem State.deliver_of_rsp_none {s : State} (hr : s.port.rsp = none) : s.deliver = s := by simp [State.deliver, hr]

/-- Settles O54: the simulation, started with no response on offer. -/
theorem runOfCommandsIsTheStepsOfItsSequence : Obligations.RunOfCommandsIsTheStepsOfItsSequence := by
  intro ws s e hf hr h
  obtain ⟨hlen, hend⟩ := runCommands_next_end hf hr h
  have hrun := strictRun_hostFor hf ((State.deliver_of_rsp_none hr).symm ▸ h) s.host.taken
  rw [hr, Option.toList_none, List.append_nil] at hrun
  exact ⟨hlen, _, hrun, ⟨rfl, hend⟩, rfl⟩

end Sys2Proof.Machine
end

section
/-! The port level (spec 20_memory.md R51, R52, R55; 70_reset_and_hazards.md R220): what each kind of edge without `rst` does, and how a
command goes from its acceptance to its completion. -/

namespace Sys2Proof.Machine

/-- R55: `cmd_ready` is 0 with a command in flight or a response outstanding, and 1 otherwise (log entry 20). -/
theorem cmdReady_eq_true_iff {s : State} : s.cmdReady = true ↔ s.port.inFlight = none ∧ s.port.rsp = none := by
  simp [State.cmdReady]

/-! ### One edge without `rst` -/

section
variable {e : Edge} {s : State} (hrst : e.pins.rst = false)
include hrst

theorem clockEdge_accept (hf : s.port.inFlight = none) (hr : s.port.rsp = none) (hv : e.pins.cmdValid = true) :
    clockEdge e s = s.setInFlight (some { word := e.pins.word, age := 0 }) := by
  simp [clockEdge, clockEdgeBy, hrst, hf, hr, hv]

theorem clockEdge_idle (hf : s.port.inFlight = none) (hr : s.port.rsp = none) (hv : e.pins.cmdValid = false) :
    clockEdge e s = s := by
  simp [clockEdge, clockEdgeBy, hrst, hf, hr, hv]

theorem clockEdge_offer {v : F64} (hf : s.port.inFlight = none) (hr : s.port.rsp = some v) :
    clockEdge e s = takeBeat e.pins.rspReady s := by
  simp [clockEdge, clockEdgeBy, hrst, hf, hr]

theorem clockEdge_complete {f : InFlight} (hf : s.port.inFlight = some f)
    (hc : (e.completes || mustComplete config f) = true) :
    clockEdge e s = completeWord f.word (s.setInFlight none) := by
  simp [clockEdge, clockEdgeBy, completeWord, hrst, hf, hc]

theorem clockEdge_wait {f : InFlight} (hf : s.port.inFlight = some f)
    (hc : (e.completes || mustComplete config f) = false) :
    clockEdge e s = s.setInFlight (some { f with age := f.age + 1 }) := by
  simp [clockEdge, clockEdgeBy, hrst, hf, hc]

end

/-! ### From acceptance to completion -/

section
variable (s : State)

@[simp] theorem setInFlight_setInFlight (f g : Option InFlight) : (s.setInFlight f).setInFlight g = s.setInFlight g := rfl

theorem setInFlight_none_of_none {s : State} (hf : s.port.inFlight = none) : s.setInFlight none = s := by
  unfold State.setInFlight
  rw [← hf]

/-- Waiting edges that stay below `LAT_MAX` only count (R52, R220). -/
theorem clockEdges_wait {es : List Edge} {f : InFlight} (hes : ∀ e ∈ es, e.pins.rst = false ∧ e.completes = false)
    (hage : f.age + es.length < config.latMax) :
    clockEdges es (s.setInFlight (some f)) = s.setInFlight (some { f with age := f.age + es.length }) := by
  induction es generalizing f with
  | nil => rfl
  | cons e es ih =>
    obtain ⟨⟨hrst, hc⟩, hes⟩ := List.forall_mem_cons.1 hes
    rw [List.length_cons] at hage ⊢
    have hmust : mustComplete config f = false := decide_eq_false (by omega)
    have hedge : clockEdge e (s.setInFlight (some f)) = s.setInFlight (some { f with age := f.age + 1 }) :=
      clockEdge_wait hrst rfl (by rw [hc, hmust]; rfl)
    rw [clockEdges, hedge, ih hes (by dsimp only; omega), Nat.add_assoc, Nat.add_comm 1]

/-- Any admissible number of waiting edges, none included, leaves the command in flight and everything else as it was. -/
theorem clockEdges_wait_inFlight {es : List Edge} (w : CmdWord) (hes : ∀ e ∈ es, e.pins.rst = false ∧ e.completes = false)
    (hlen : es = [] ∨ es.length < config.latMax) :
    ∃ n, clockEdges es (s.setInFlight (some { word := w, age := 0 })) = s.setInFlight (some { word := w, age := n }) := by
  obtain rfl | hlen := hlen
  · exact ⟨0, rfl⟩
  · exact ⟨_, clockEdges_wait s hes (by rwa [Nat.zero_add])⟩

end

/-- A command that completes puts no other in flight, a reserved word included (R55). -/
theorem completeWord_inFlight (w : CmdWord) (s : State) : (completeWord w s).port.inFlight = s.port.inFlight := by
  have hexec : execWith config = exec := funext₂ execWith_config
  rw [completeWord, ← hexec]
  obtain ⟨i, -, hx⟩ | ⟨r, hr⟩ := completeWordBy_execWith_cases config w s
  · exact execWith_next_inFlight hx
  · rw [hr, State.markRefusal_port]

/-- The hardware completes a command with what the command level gives, where it gives a state. -/
theorem completeWord_of_runWord_next {w : CmdWord} {s t : State} (h : runWord w s = .next t) : completeWord w s = t := by
  obtain ⟨i, hd, hx⟩ := runWordBy_next h
  simp [completeWord, completeWordBy, hd, absorb, hx]

/-! ### The obligations -/

/-- Settles O55: one clause for each kind of edge; a command in flight waits with its word, or completes and leaves no command in
flight. -/
theorem handshakeAcceptsOneCommandAtATime : Obligations.HandshakeAcceptsOneCommandAtATime := by
  intro e s hrst
  refine ⟨cmdReady_eq_true_iff, ?_, ?_, ?_, ?_, ?_⟩
  · intro hready hv
    obtain ⟨hf, hr⟩ := cmdReady_eq_true_iff.1 hready
    exact clockEdge_accept hrst hf hr hv
  · intro hready hv
    obtain ⟨hf, hr⟩ := cmdReady_eq_true_iff.1 hready
    exact clockEdge_idle hrst hf hr hv
  · intro v hf hr hready
    rw [clockEdge_offer hrst hf hr, hready, takeBeat_false]
  · intro v hf hr hready
    rw [clockEdge_offer hrst hf hr, hready, takeBeat_true]
    simp [State.deliver, hr]
  · intro f g hf hg
    cases hc : e.completes || mustComplete config f with
    | true =>
      rw [clockEdge_complete hrst hf hc, completeWord_inFlight] at hg
      cases hg
    | false =>
      rw [clockEdge_wait hrst hf hc] at hg
      cases hg
      rfl

/-- Settles O56: the edge completes the command or counts, and it counts only when the implementation did not choose to complete. -/
theorem commandTakesEffectAllAtOnce : Obligations.CommandTakesEffectAllAtOnce := by
  intro e s f hf hrst
  cases hc : e.completes || mustComplete config f with
  | true => exact .inr (clockEdge_complete hrst hf hc)
  | false =>
    have hwait : clockEdge e s = s.setInFlight (some { f with age := f.age + 1 }) := clockEdge_wait hrst hf hc
    obtain ⟨hcompletes, -⟩ := Bool.or_eq_false_iff.1 hc
    exact .inl ⟨hwait, by rw [hwait]; rfl, by rw [hwait]; rfl, hcompletes⟩

/-- Settles O57: acceptance, the waiting edges, and the completion, which finds the state the command was presented to. -/
theorem portLevelRefinesCommandLevel : Obligations.PortLevelRefinesCommandLevel := by
  intro s t first last waits hf hr hrst hv hwaits hlen hrst' hc hrun
  have ⟨n, hwait⟩ := clockEdges_wait_inFlight s first.pins.word hwaits hlen
  rw [clockEdge_accept hrst hf hr hv, hwait, clockEdge_complete hrst' rfl (by rw [hc]; rfl), setInFlight_setInFlight,
    setInFlight_none_of_none hf]
  exact completeWord_of_runWord_next hrun

end Sys2Proof.Machine
end

section
/-! Several channels (spec 20_memory.md R65; 60_exceptions.md R199): what a step of one of them does at each place of the list. -/

namespace Sys2Proof.Machine

section
variable {k j : Nat} (bs : List Result)

theorem stepChannel_length : (stepChannel k bs).length = bs.length := List.length_modify _ _ _

theorem stepChannel_getElem?_self : (stepChannel k bs)[k]? = bs[k]?.map stepOutcome := by
  simp [stepChannel]

theorem stepChannel_getElem?_ne (h : k ≠ j) : (stepChannel k bs)[j]? = bs[j]? := by
  simp [stepChannel, h]

theorem stepChannel_comm (h : k ≠ j) : stepChannel j (stepChannel k bs) = stepChannel k (stepChannel j bs) :=
  List.modify_modify_ne _ _ bs h

end

/-- Settles O60: the rules for the place that steps and for every other one. -/
theorem channelsAreIndependent : Obligations.ChannelsAreIndependent := by
  intro k j bs h
  refine ⟨stepChannel_length bs, stepChannel_getElem?_ne bs h, fun s hs => ?_, stepChannel_comm bs h⟩
  rw [stepChannel_getElem?_self, hs]
  rfl

end Sys2Proof.Machine
end

section
/-! The encoding (spec 30_encoding.md R70 to R77): a word is its opcode and its data, the decoder and the encoder are inverse to each
other on the well-formed instructions, and the reserved words are those that decode to no command. -/

namespace Sys2Proof.Machine

/-! ### The fields of a word (R70, R72) -/

section
variable (w : CmdWord) (sel : BitVec 3)

theorem opField_append_dataField : opField w ++ dataField w = w :=
  (BitVec.extractLsb'_append_extractLsb'_eq_extractLsb' rfl).trans BitVec.extractLsb'_eq_self

theorem zeroField_append_selField (d : F64) : zeroField d ++ selField d = d :=
  (BitVec.extractLsb'_append_extractLsb'_eq_extractLsb' rfl).trans BitVec.extractLsb'_eq_self

theorem zeroField_dataField : zeroField (dataField w) = w.extractLsb' 3 61 := by
  ext k hk
  simp [zeroField, dataField]

theorem selField_dataField : selField (dataField w) = w.extractLsb' 0 3 := by
  ext k hk
  simp [selField, dataField]

theorem toNat_dataField : (dataField w).toNat = w.toNat % 2 ^ 64 := by simp [dataField]

/-- R73: `zext_64` puts a `zero` field of zeros before the type code. -/
theorem setWidth_eq_zero_append : sel.setWidth 64 = 0#61 ++ sel := BitVec.setWidth_eq_append (by decide)

@[simp] theorem zeroField_setWidth : zeroField (sel.setWidth 64) = 0#61 := by
  rw [setWidth_eq_zero_append]
  exact BitVec.extractLsb'_append_eq_left

@[simp] theorem selField_setWidth : selField (sel.setWidth 64) = sel := by
  rw [setWidth_eq_zero_append]
  exact BitVec.extractLsb'_append_eq_right

end

/-- Format T data is its type code, extended (R73, R74). -/
theorem setWidth_selField {d : F64} (hz : zeroField d = 0#61) : (selField d).setWidth 64 = d := by
  rw [setWidth_eq_zero_append, ← hz, zeroField_append_selField]

/-! ### The fields of an instruction's word -/

@[simp] theorem opField_encode (i : Instr) : opField (encode i) = i.op := opField_append _ _

@[simp] theorem dataField_encode (i : Instr) : dataField (encode i) = i.data := dataField_append _ _

theorem encode_eq_of_fields {w : CmdWord} {i : Instr} (hop : i.op = opField w) (hdata : i.data = dataField w) :
    encode i = w := by
  rw [encode, hop, hdata, opField_append_dataField]

theorem legalTypeCode_eq_true_iff (sel : BitVec 3) : legalTypeCode sel = true ↔ sel ≠ 6#3 ∧ sel ≠ 7#3 := by
  revert sel; decide

theorem opcode_cases (o : BitVec 3) :
    o = 0#3 ∨ o = 1#3 ∨ o = 2#3 ∨ o = 3#3 ∨ o = 4#3 ∨ o = 5#3 ∨ o = 6#3 ∨ o = 7#3 := by
  revert o; decide

/-- Format T data belongs to a row with `op = 4`: one of the two reserved rows, or SETTYPE (R74, R77). -/
theorem exists_wf_of_zeroField_eq {d : F64} (hz : zeroField d = 0#61) : ∃ i : Instr, i.wf = true ∧ i.op = 4#3 ∧ i.data = d := by
  have hd : (selField d).setWidth 64 = d := setWidth_selField hz
  by_cases h6 : selField d = 6#3
  · exact ⟨.reservedType6, rfl, rfl, by rw [← hd, h6]; rfl⟩
  · by_cases h7 : selField d = 7#3
    · exact ⟨.reservedType7, rfl, rfl, by rw [← hd, h7]; rfl⟩
    · exact ⟨.setType (selField d), (legalTypeCode_eq_true_iff _).2 ⟨h6, h7⟩, rfl, hd⟩

/-- The table has a row for every opcode and data, but for `op = 4` with a `zero` field that is not zero (R75, R77). -/
theorem exists_wf_of_fields (o : BitVec 3) (d : F64) (hz : o = 4#3 → zeroField d = 0#61) :
    ∃ i : Instr, i.wf = true ∧ i.op = o ∧ i.data = d := by
  obtain rfl | rfl | rfl | rfl | rfl | rfl | rfl | rfl := opcode_cases o
  · exact ⟨.setRate d, rfl, rfl, rfl⟩
  · exact ⟨.setCut d, rfl, rfl, rfl⟩
  · exact ⟨.setQ d, rfl, rfl, rfl⟩
  · exact ⟨.setGain d, rfl, rfl, rfl⟩
  · exact exists_wf_of_zeroField_eq (hz rfl)
  · exact ⟨.process d, rfl, rfl, rfl⟩
  · exact ⟨.reservedOp6 d, rfl, rfl, rfl⟩
  · exact ⟨.reservedOp7 d, rfl, rfl, rfl⟩

/-! ### Decoding -/

theorem decodeType_setWidth {sel : BitVec 3} (h : legalTypeCode sel = true) :
    decodeType (sel.setWidth 64) = .ok (.setType sel) := by
  obtain ⟨h6, h7⟩ := (legalTypeCode_eq_true_iff sel).1 h
  simp [decodeType, h6, h7]

theorem decodeWord_encode {i : Instr} (h : i.wf = true) : decodeWord (encode i) = .ok i := by
  rw [decodeWord, opField_encode, dataField_encode]
  cases i with
  | setType sel => exact decodeType_setWidth h
  | _ => rfl

theorem decodeWord_of_zeroField_ne {w : CmdWord} (hop : opField w = 4#3) (hz : zeroField (dataField w) ≠ 0#61) :
    decodeWord w = .error .reservedTypeCode := by
  simp [decodeWord, decodeType, hop, hz]

/-- Everything a word can be: the word of the instruction it decodes to, or one of R77 (b). -/
theorem decodeWord_cases (w : CmdWord) :
    (∃ i, i.wf = true ∧ encode i = w ∧ decodeWord w = .ok i) ∨
    (opField w = 4#3 ∧ zeroField (dataField w) ≠ 0#61 ∧ decodeWord w = .error .reservedTypeCode) := by
  by_cases h : opField w = 4#3 → zeroField (dataField w) = 0#61
  · obtain ⟨i, hwf, hop, hdata⟩ := exists_wf_of_fields (opField w) (dataField w) h
    obtain rfl : encode i = w := encode_eq_of_fields hop hdata
    exact .inl ⟨i, hwf, rfl, decodeWord_encode hwf⟩
  · obtain ⟨hop, hz⟩ := Classical.not_imp.1 h
    exact .inr ⟨hop, hz, decodeWord_of_zeroField_ne hop hz⟩

theorem decodeWord_eq_ok_iff {w : CmdWord} {i : Instr} : decodeWord w = .ok i ↔ i.wf = true ∧ encode i = w := by
  constructor
  · intro h
    obtain ⟨j, hwf, hw, hd⟩ | ⟨-, -, hd⟩ := decodeWord_cases w
    · cases hd.symm.trans h
      exact ⟨hwf, hw⟩
    · cases hd.symm.trans h
  · rintro ⟨hwf, rfl⟩
    exact decodeWord_encode hwf

/-! ### The reserved words (R77) -/

/-- The three cases of R77 over the opcode and the data of a word. -/
def ReservedFields (o : BitVec 3) (d : F64) : Prop :=
  o = 6#3 ∨ o = 7#3 ∨ (o = 4#3 ∧ zeroField d ≠ 0#61) ∨
    (o = 4#3 ∧ zeroField d = 0#61 ∧ (selField d = 6#3 ∨ selField d = 7#3))

theorem isCommand_iff_not_reservedFields {i : Instr} (h : i.wf = true) :
    i.isCommand = true ↔ ¬ ReservedFields i.op i.data := by
  cases i with
  | setType sel =>
    obtain ⟨h6, h7⟩ := (legalTypeCode_eq_true_iff sel).1 h
    simp [ReservedFields, Instr.isCommand, Instr.op, Instr.data, legalTypeCode_eq_true_iff, h6, h7]
  | reservedType6 | reservedType7 => simp [ReservedFields, Instr.isCommand, Instr.op, Instr.data, zeroField, selField]
  | _ => simp [ReservedFields, Instr.isCommand, Instr.op]

theorem exists_command_iff_not_reservedFields (w : CmdWord) :
    (∃ i, decodeWord w = .ok i ∧ i.isCommand = true) ↔ ¬ ReservedFields (opField w) (dataField w) := by
  obtain ⟨i, hwf, rfl, hd⟩ | ⟨hop, hz, hd⟩ := decodeWord_cases w
  · simp [hd, isCommand_iff_not_reservedFields hwf]
  · simp [hd, ReservedFields, hop, hz]

/-! ### Type codes (R76) -/

@[simp] theorem typeOfCode_typeCode (t : FilterType) : typeOfCode (typeCode t) = some t := by cases t <;> rfl

theorem typeOfCode_eq_none_iff (sel : BitVec 3) : typeOfCode sel = none ↔ 5 < sel.toNat := by
  rw [← Option.isNone_iff_eq_none, ← Option.not_isSome, typeOfCode_legal]
  simp [legalTypeCode]

/-! ### The obligations -/

/-- Settles O2: the fields of the word are the opcode and the operand, and the decoder reads nothing else. -/
theorem decodeOfEncode : Obligations.DecodeOfEncode := fun _ => decodeWord_encode

/-- Settles O3: a word that decodes is the word of a well-formed instruction, which is the one it decodes to. -/
theorem encodeOfDecode : Obligations.EncodeOfDecode := fun _ _ => decodeWord_eq_ok_iff.1

/-- Settles O4: R77's cases over the bits of the word are its cases over the opcode and the data. -/
theorem reservedWordsAreExactlyThese : Obligations.ReservedWordsAreExactlyThese := by
  intro w
  rw [← zeroField_dataField, ← selField_dataField]
  exact exists_command_iff_not_reservedFields w

/-- Settles O1: each word of a row is the encoding of its instruction, and the last is one of R77 (b). -/
theorem tableWordsDecode : Obligations.TableWordsDecode := by
  refine ⟨?_, ?_, ?_, ?_, ?_, ?_, ?_, ?_, ?_, ?_, decodeWord_of_zeroField_ne (by decide) (by decide)⟩
  all_goals exact decodeWord_eq_ok_iff.2 ⟨rfl, rfl⟩

/-- Settles O5: the table of R76, row by row. -/
theorem typeCodesInPrintedOrder : Obligations.TypeCodesInPrintedOrder :=
  ⟨rfl, rfl, rfl, rfl, rfl, rfl, rfl, rfl, typeOfCode_typeCode⟩

end Sys2Proof.Machine
end

section
/-! The words that are refused (spec 30_encoding.md R77, R78): the command level answers a refusal by name, and the port level turns it
into a mark on the run and nothing else. -/

namespace Sys2Proof.Machine

/-! ### The command level -/

theorem exec_reservedType6 (s : State) : exec .reservedType6 s = .refused .reservedTypeCode := rfl

theorem exec_reservedType7 (s : State) : exec .reservedType7 s = .refused .reservedTypeCode := rfl

theorem exec_reservedOp6 (d : F64) (s : State) : exec (.reservedOp6 d) s = .refused .reservedOpcode := rfl

theorem exec_reservedOp7 (d : F64) (s : State) : exec (.reservedOp7 d) s = .refused .reservedOpcode := rfl

/-- R126: SETTYPE with a code that names no type writes nothing. -/
theorem exec_setType_refused {sel : BitVec 3} (hsel : 5 < sel.toNat) (s : State) :
    exec (.setType sel) s = .refused .reservedTypeCode := by
  simp [exec, execSetType, setTypeCode, (typeOfCode_eq_none_iff sel).2 hsel, refuseOutcome]

section
variable {w : CmdWord} {s : State}

theorem exec_refused_of_op {i : Instr} (hop : i.op = 6#3 ∨ i.op = 7#3) : exec i s = .refused .reservedOpcode := by
  cases i with
  | reservedOp6 d => exact exec_reservedOp6 d s
  | reservedOp7 d => exact exec_reservedOp7 d s
  | _ => simp [Instr.op] at hop

theorem exec_refused_of_data {i : Instr} (hop : i.op = 4#3) (hdata : 5 < i.data.toNat) :
    exec i s = .refused .reservedTypeCode := by
  cases i with
  | setType sel =>
    have hsel : (sel.setWidth 64).toNat = sel.toNat := BitVec.toNat_setWidth_of_le (by decide)
    exact exec_setType_refused (hsel ▸ hdata) s
  | reservedType6 => exact exec_reservedType6 s
  | reservedType7 => exact exec_reservedType7 s
  | _ => simp [Instr.op] at hop

theorem runWord_ok {i : Instr} (hd : decodeWord w = .ok i) : runWord w s = exec i s := runWordBy_ok hd

theorem runWord_error {x : Reject} (hd : decodeWord w = .error x) : runWord w s = .refused (refusalOf x) := by
  simp [runWord, runWordBy, hd, refuseOutcome]

theorem runWord_refused_of_opField (hop : opField w = 6#3 ∨ opField w = 7#3) : runWord w s = .refused .reservedOpcode := by
  obtain ⟨i, -, rfl, hd⟩ | ⟨h4, -, -⟩ := decodeWord_cases w
  · rw [opField_encode] at hop
    rw [runWord_ok hd, exec_refused_of_op hop]
  · simp [h4] at hop

theorem runWord_refused_of_dataField (hop : opField w = 4#3) (hdata : 5 < (dataField w).toNat) :
    runWord w s = .refused .reservedTypeCode := by
  obtain ⟨i, -, rfl, hd⟩ | ⟨-, -, hd⟩ := decodeWord_cases w
  · rw [opField_encode] at hop
    rw [dataField_encode] at hdata
    rw [runWord_ok hd, exec_refused_of_data hop hdata]
  · exact runWord_error hd

/-! ### The port level -/

/-- R78: the hardware completes a word the command level refuses by marking the run. -/
theorem completeWord_of_runWord_refused {r : Refusal} (h : runWord w s = .refused r) : completeWord w s = s.markRefusal r := by
  cases hd : decodeWord w with
  | ok i =>
    rw [runWord_ok hd] at h
    simp [completeWord, completeWordBy, hd, absorb, h, ignoreWord]
  | error x =>
    rw [runWord_error hd] at h
    cases h
    simp [completeWord, completeWordBy, hd, ignoreWord]

end

/-! ### The obligations -/

/-- Settles O8: the two ways to be reserved give the refusal, and the mark is all that is left of it at completion. -/
theorem reservedWordsAreRefusedAndIgnored : Obligations.ReservedWordsAreRefusedAndIgnored := by
  intro w r h s
  have hrun : runWord w s = .refused r := by
    obtain ⟨hop, rfl⟩ | ⟨hop, hdata, rfl⟩ := h
    · exact runWord_refused_of_opField hop
    · exact runWord_refused_of_dataField hop (toNat_dataField w ▸ hdata)
  have hmark : completeWord w s = s.markRefusal r := completeWord_of_runWord_refused hrun
  refine ⟨hrun, by rw [hmark]; rfl, fun hnone => ?_, fun m hsome => ?_, fun e hf hr hrst hv hw => ?_⟩
  · rw [hmark, State.markRefusal_refusal, hnone, Option.none_or]
  · rw [hmark, State.markRefusal_refusal, hsome, Option.some_or]
  · subst hw
    exact clockEdge_accept hrst hf hr hv

/-- Settles O9: one equation of `exec` for each reserved row. -/
theorem reservedRowsStop : Obligations.ReservedRowsStop := fun s d =>
  ⟨exec_reservedType6 s, exec_reservedType7 s, exec_reservedOp6 d s, exec_reservedOp7 d s⟩

end Sys2Proof.Machine
end

section
/-! The host's acts that are no commands (spec 30_encoding.md R80; 20_memory.md R55; 70_reset_and_hazards.md R210). -/

namespace Sys2Proof.Machine

section
variable {s : State} {as : List HostAct} (hf : s.port.inFlight = none)
include hf

theorem step_reset (ha : s.host.acts = .reset :: as) : step s = .next ((s.setActs as).resetBlock config) := by
  simp [step, nextAct, hf, ha]

theorem step_take (ha : s.host.acts = .take :: as) : step s = .next (s.setActs as).deliver := nextAct_take hf ha

end

theorem State.deliver_of_rsp_some {s : State} {v : F64} (hr : s.port.rsp = some v) :
    s.deliver = { s with port := { s.port with rsp := none }, host := { s.host with taken := s.host.taken ++ [v] } } := by
  simp [State.deliver, hr]

/-- Settles O14: the reset of the block, and the delivery with and without a beat on offer. -/
theorem hostActsResetAndTake : Obligations.HostActsResetAndTake := by
  intro s as hf
  refine ⟨fun ha => step_reset hf ha, fun v ha hr => ?_, fun ha hr => ?_⟩
  · rw [step_take hf ha, State.deliver_of_rsp_some (s := s.setActs as) hr]
    rfl
  · rw [step_take hf ha, State.deliver_of_rsp_none (s := s.setActs as) hr]
    rfl

end Sys2Proof.Machine
end

section
/-! Binary64 patterns (spec 40_numerics.md R90): a pattern is its sign and its magnitude bits, and the value of the magnitude bits
grows with them. -/

namespace Sys2Proof.Machine

/-! ### Sign and magnitude bits of a pattern -/

section
variable {s : Bool} {m : Nat}

theorem toNat_packBits (hm : m < 2 ^ 63) : (packBits s m).toNat = (if s then 2 ^ 63 else 0) + m := by
  rw [packBits, BitVec.toNat_ofNat, Nat.mod_eq_of_lt]
  split <;> omega

theorem magBits_packBits (hm : m < 2 ^ 63) : magBits (packBits s m) = m := by
  rw [magBits, toNat_packBits hm]
  split <;> omega

theorem signBit_packBits (hm : m < 2 ^ 63) : signBit (packBits s m) = s := by
  have hdiv : (packBits s m).toNat / 2 ^ 63 = if s then 1 else 0 := by
    rw [toNat_packBits hm]
    split <;> omega
  rw [signBit, hdiv]
  cases s <;> rfl

end

theorem magBits_lt (x : F64) : magBits x < 2 ^ 63 := Nat.mod_lt _ (Nat.two_pow_pos _)

@[simp] theorem packBits_signBit_magBits (x : F64) : packBits (signBit x) (magBits x) = x := by
  have hx := x.isLt
  apply BitVec.eq_of_toNat_eq
  rw [toNat_packBits (magBits_lt x)]
  unfold signBit magBits
  split <;> simp_all <;> omega

theorem F64.ext {x y : F64} (hs : signBit x = signBit y) (hm : magBits x = magBits y) : x = y := by
  rw [← packBits_signBit_magBits x, hs, hm, packBits_signBit_magBits]

theorem infMag_lt : infMag < 2 ^ 63 := by decide

theorem lt_two_pow_of_le_infMag {m : Nat} (hm : m ≤ infMag) : m < 2 ^ 63 := hm.trans_lt infMag_lt

/-! ### The kinds of patterns -/

section
variable {x : F64}

theorem isFinite_iff : isFinite x = true ↔ magBits x < infMag := decide_eq_true_iff

theorem isInf_iff : isInf x = true ↔ magBits x = infMag := beq_iff_eq

theorem isZero_iff : isZero x = true ↔ magBits x = 0 := beq_iff_eq

theorem isZero_eq_false_iff : isZero x = false ↔ magBits x ≠ 0 := beq_eq_false_iff_ne

theorem isNaN_eq_false_iff : isNaN x = false ↔ magBits x ≤ infMag := by simp [isNaN]

theorem not_isNaN_of_isFinite (h : isFinite x = true) : isNaN x = false := isNaN_eq_false_iff.2 (isFinite_iff.1 h).le

theorem not_isInf_of_isFinite (h : isFinite x = true) : isInf x = false := beq_eq_false_iff_ne.2 (isFinite_iff.1 h).ne

theorem not_isNaN_of_isInf (h : isInf x = true) : isNaN x = false := isNaN_eq_false_iff.2 (isInf_iff.1 h).le

theorem isFinite_of_isZero (h : isZero x = true) : isFinite x = true :=
  isFinite_iff.2 (isZero_iff.1 h ▸ by decide)

theorem not_isZero_of_isInf (h : isInf x = true) : isZero x = false :=
  isZero_eq_false_iff.2 (isInf_iff.1 h ▸ by decide)

theorem isFinite_or_isInf_of_not_isNaN (h : isNaN x = false) : isFinite x = true ∨ isInf x = true := by
  rw [isFinite_iff, isInf_iff]
  exact (isNaN_eq_false_iff.1 h).lt_or_eq

end

/-! ### The value of magnitude bits -/

/-- A significand `n` of 53 bits, the carry to 54 bits included, at exponent `k`; with `k = 0` any smaller one too. -/
theorem unitsOf_add_mul {n k : Nat} (hn : n ≤ 2 ^ 53) (hk : k = 0 ∨ 2 ^ 52 ≤ n) : unitsOf (n + k * 2 ^ 52) = n * 2 ^ k := by
  rcases lt_or_ge n (2 ^ 52) with h52 | h52
  · obtain rfl : k = 0 := by omega
    rw [zero_mul, add_zero, pow_zero, mul_one, unitsOf, if_pos h52]
  rw [unitsOf, if_neg (by omega)]
  rcases hn.lt_or_eq with h53 | rfl
  · rw [show (n + k * 2 ^ 52) % 2 ^ 52 = n - 2 ^ 52 by omega, show (n + k * 2 ^ 52) / 2 ^ 52 - 1 = k by omega,
      Nat.add_sub_cancel' h52]
  · rw [show (2 ^ 53 + k * 2 ^ 52) % 2 ^ 52 = 0 by omega, show (2 ^ 53 + k * 2 ^ 52) / 2 ^ 52 - 1 = k + 1 by omega,
      pow_succ]
    omega

/-- Every magnitude is a significand at an exponent: 52 bits at exponent 0, else exactly 53. -/
theorem exists_significand (m : Nat) : ∃ n k, m = n + k * 2 ^ 52 ∧ n < 2 ^ 53 ∧ (k = 0 ∨ 2 ^ 52 ≤ n) := by
  rcases lt_or_ge m (2 ^ 52) with h | h
  · exact ⟨m, 0, by omega, by omega, .inl rfl⟩
  · exact ⟨2 ^ 52 + m % 2 ^ 52, m / 2 ^ 52 - 1, by omega, by omega, .inr (by omega)⟩

theorem unitsOf_strictMono : StrictMono unitsOf := by
  refine strictMono_nat_of_lt_succ fun m => ?_
  obtain ⟨n, k, rfl, hn, hk⟩ := exists_significand m
  rw [unitsOf_add_mul hn.le hk, Nat.add_right_comm, unitsOf_add_mul hn (hk.imp_right Nat.le_succ_of_le)]
  exact Nat.mul_lt_mul_of_pos_right n.lt_succ_self (Nat.two_pow_pos k)

@[simp] theorem unitsOf_zero : unitsOf 0 = 0 := rfl

theorem unitsOf_pos {m : Nat} (hm : m ≠ 0) : 0 < unitsOf m := unitsOf_strictMono (Nat.pos_of_ne_zero hm)

theorem unitsOf_oneMag : unitsOf oneMag = 2 ^ unitBits := by
  rw [unitBits, show oneMag = 2 ^ 52 + 1022 * 2 ^ 52 by decide, unitsOf_add_mul (by decide) (.inr le_rfl), ← pow_add]

theorem unitsOf_infMag : unitsOf infMag = 2 ^ 2098 := by
  rw [show infMag = 2 ^ 52 + 2046 * 2 ^ 52 by decide, unitsOf_add_mul (by decide) (.inr le_rfl), ← pow_add]

/-- Every number with 53 significant bits is the value of magnitude bits. -/
theorem exists_unitsOf_eq {n : Nat} (k : Nat) (hn : n < 2 ^ 53) : ∃ m, unitsOf m = n * 2 ^ k := by
  induction k generalizing n with
  | zero => exact ⟨n, by simpa using unitsOf_add_mul (k := 0) hn.le (.inl rfl)⟩
  | succ k ih =>
    rcases lt_or_ge n (2 ^ 52) with h | h
    · obtain ⟨m, hm⟩ := ih (n := n * 2) (by omega)
      exact ⟨m, by rw [hm, pow_succ', mul_assoc]⟩
    · exact ⟨_, unitsOf_add_mul hn.le (.inr h)⟩

/-! ### The value of a pattern -/

theorem natAbs_valueOf (x : F64) : (valueOf x).natAbs = unitsOf (magBits x) := by
  unfold valueOf
  split <;> simp

theorem valueOf_eq_zero_iff {x : F64} : valueOf x = 0 ↔ isZero x = true := by
  rw [← Int.natAbs_eq_zero, natAbs_valueOf, isZero_iff]
  exact unitsOf_strictMono.injective.eq_iff' unitsOf_zero

end Sys2Proof.Machine
end

section
/-! The one rounding (spec 40_numerics.md R91, R98): what it means that magnitude bits are the rounding of a real number, stated by the
midpoints between a magnitude and the others, and that `roundUnits` computes it. -/

namespace Sys2Proof.Machine

/-- The magnitude bits `m` are the rounding of `v` units: `v` is on the side of `m` of every midpoint, and on a midpoint only when `m` is
even. At infinity there is no midpoint above. -/
structure RoundsTo (v : ℝ) (m : Nat) : Prop where
  le_infMag : m ≤ infMag
  above : ∀ j < m, (unitsOf j + unitsOf m : ℝ) ≤ 2 * v ∧ ((unitsOf j + unitsOf m : ℝ) = 2 * v → Even m)
  below : m < infMag → ∀ j, m < j → 2 * v ≤ unitsOf m + unitsOf j ∧ (2 * v = unitsOf m + unitsOf j → Even m)

section
variable {v w x : ℝ} {m n : Nat}

theorem unitsOf_real_lt {i j : Nat} : (unitsOf i : ℝ) < unitsOf j ↔ i < j := by
  rw [Nat.cast_lt, unitsOf_strictMono.lt_iff_lt]

theorem unitsOf_real_le {i j : Nat} : (unitsOf i : ℝ) ≤ unitsOf j ↔ i ≤ j := by
  rw [Nat.cast_le, unitsOf_strictMono.le_iff_le]

/-! ### How the rounding lies in the order -/

/-- What lies between two numbers that round alike rounds as they do. -/
theorem RoundsTo.between (hv : RoundsTo v m) (hw : RoundsTo w m) (hvx : v ≤ x) (hxw : x ≤ w) : RoundsTo x m where
  le_infMag := hv.le_infMag
  above j hj := by
    obtain ⟨hle, heven⟩ := hv.above j hj
    exact ⟨by linarith, fun h => heven (by linarith)⟩
  below hm j hj := by
    obtain ⟨hle, heven⟩ := hw.below hm j hj
    exact ⟨by linarith, fun h => heven (by linarith)⟩

theorem RoundsTo.le_of_le_unitsOf (h : RoundsTo v m) (hv : v ≤ unitsOf n) : m ≤ n := by
  by_contra! hlt
  obtain ⟨habove, -⟩ := h.above n hlt
  linarith [unitsOf_real_lt.2 hlt]

theorem RoundsTo.le_of_unitsOf_le (h : RoundsTo v m) (hn : n ≤ infMag) (hv : unitsOf n ≤ v) : n ≤ m := by
  by_contra! hlt
  obtain ⟨hbelow, -⟩ := h.below (by omega) n hlt
  linarith [unitsOf_real_lt.2 hlt]

/-- A value that is exact is rounded to itself. -/
theorem RoundsTo.eq_of_eq_unitsOf (h : RoundsTo v m) (hn : n ≤ infMag) (hv : v = unitsOf n) : m = n :=
  (h.le_of_le_unitsOf hv.le).antisymm (h.le_of_unitsOf_le hn hv.ge)

/-! ### Nearness -/

/-- The one comparison of distances behind the rest: of two numbers `a < b` the upper one is as near to `v`, or nearer, from the
midpoint on. -/
theorem abs_sub_le_abs_sub_of_midpoint {a b v : ℝ} (hab : a < b) (h : a + b ≤ 2 * v) :
    |v - b| ≤ |v - a| ∧ (|v - b| = |v - a| → a + b = 2 * v) := by
  have ha : |v - a| = v - a := abs_of_nonneg (by linarith)
  refine ⟨by rw [ha, abs_le]; constructor <;> linarith, fun heq => ?_⟩
  rcases abs_eq_abs.1 heq with h | h <;> linarith

theorem RoundsTo.dist_le (h : RoundsTo v m) (hm : m < infMag) (j : Nat) :
    |v - unitsOf m| ≤ |v - unitsOf j| ∧ (|v - unitsOf m| = |v - unitsOf j| → j ≠ m → Even m) := by
  rcases lt_trichotomy j m with hj | rfl | hj
  · obtain ⟨hle, heven⟩ := h.above j hj
    obtain ⟨hd, heq⟩ := abs_sub_le_abs_sub_of_midpoint (unitsOf_real_lt.2 hj) hle
    exact ⟨hd, fun h _ => heven (heq h)⟩
  · exact ⟨le_rfl, fun _ hne => absurd rfl hne⟩
  · -- mirrored: distances are those of the negated numbers
    obtain ⟨hle, heven⟩ := h.below hm j hj
    obtain ⟨hd, heq⟩ := abs_sub_le_abs_sub_of_midpoint (v := -v) (neg_lt_neg (unitsOf_real_lt.2 hj)) (by linarith)
    rw [← neg_sub', ← neg_sub', abs_neg, abs_neg] at hd heq
    exact ⟨hd, fun h _ => heven (by linarith [heq h])⟩

/-- R91's nearest in natural numbers is the nearest of the real ratio. -/
theorem RoundsTo.nearestEven {num den : Nat} (h : RoundsTo (num / den) m) (hden : 0 < den) (hm : m < infMag) :
    NearestEven num den m := by
  have hdist : ∀ j, ((((unitsOf j * den : Int) - num).natAbs : Nat) : ℝ) = den * |(num / den : ℝ) - unitsOf j| := fun j => by
    have hpos : (0 : ℝ) < den := Nat.cast_pos.2 hden
    rw [Nat.cast_natAbs]
    push_cast
    rw [abs_sub_comm, ← abs_of_pos hpos, ← abs_mul, abs_of_pos hpos, mul_sub, mul_div_cancel₀ _ hpos.ne', mul_comm (den : ℝ)]
  refine ⟨hm, fun j _ => ?_⟩
  obtain ⟨hle, heven⟩ := h.dist_le hm j
  rw [← Nat.cast_le (α := ℝ), ← Nat.cast_inj (R := ℝ), hdist, hdist]
  refine ⟨by gcongr, fun heq hne => Nat.even_iff.1 (heven ?_ hne)⟩
  exact mul_left_cancel₀ (Nat.cast_ne_zero.2 hden.ne') heq

/-! ### The overflow threshold -/

theorem unitsOf_maxFinite : unitsOf (infMag - 1) + 2 * 2 ^ 2044 = 2 ^ 2098 := by
  rw [show infMag - 1 = (2 ^ 53 - 1) + 2045 * 2 ^ 52 by decide, unitsOf_add_mul (by decide) (.inr (by decide)), ← pow_succ',
    ← Nat.succ_mul, show Nat.succ (2 ^ 53 - 1) = 2 ^ 53 by decide, ← pow_add]

/-- The midpoint between the largest finite value and the next power of two is `2^1024 - 2^970`. -/
theorem overflow_midpoint : (unitsOf (infMag - 1) + unitsOf infMag : ℝ) = 2 * (2 ^ 2098 - 2 ^ 2044) := by
  have hmax := congrArg (Nat.cast (R := ℝ)) unitsOf_maxFinite
  have hinf := congrArg (Nat.cast (R := ℝ)) unitsOf_infMag
  simp only [Nat.cast_add, Nat.cast_mul, Nat.cast_pow, Nat.cast_ofNat] at hmax hinf
  generalize (2 : ℝ) ^ 2098 = p at *
  generalize (2 : ℝ) ^ 2044 = q at *
  linarith

/-- R91: infinity from `2^1024 - 2^970` on. -/
theorem RoundsTo.eq_infMag_iff (h : RoundsTo v m) : m = infMag ↔ (2 ^ 2098 - 2 ^ 2044 : ℝ) ≤ v := by
  have hmid := overflow_midpoint
  generalize (2 ^ 2098 - 2 ^ 2044 : ℝ) = t at *
  constructor
  · rintro rfl
    obtain ⟨habove, -⟩ := h.above (infMag - 1) (by decide)
    linarith
  · intro hv
    refine h.le_infMag.antisymm (not_lt.1 fun hlt => ?_)
    obtain ⟨hbelow, heven⟩ := h.below hlt infMag hlt
    rcases (Nat.le_sub_one_of_lt hlt).lt_or_eq with hlt' | rfl
    · linarith [unitsOf_real_lt.2 hlt']
    · exact absurd (heven (by linarith)) (by decide)

/-! ### How a rounding is computed -/

/-- A magnitude that meets the midpoint with each of its two neighbours is the rounding, up to the overflow to infinity. -/
theorem RoundsTo.of_neighbours
    (hlow : ∀ j, j + 1 = n → (unitsOf j + unitsOf n : ℝ) ≤ 2 * v ∧ ((unitsOf j + unitsOf n : ℝ) = 2 * v → Even n))
    (hhigh : 2 * v ≤ unitsOf n + unitsOf (n + 1) ∧ (2 * v = unitsOf n + unitsOf (n + 1) → Even n)) :
    RoundsTo v (min n infMag) where
  le_infMag := min_le_right _ _
  above j hj := by
    obtain ⟨i, rfl⟩ : ∃ i, n = i + 1 := ⟨n - 1, by omega⟩
    obtain ⟨hle, heven⟩ := hlow i rfl
    have hji : (unitsOf j : ℝ) ≤ unitsOf i := unitsOf_real_le.2 (by omega)
    have hmin : (unitsOf (min (i + 1) infMag) : ℝ) ≤ unitsOf (i + 1) := unitsOf_real_le.2 (min_le_left _ _)
    refine ⟨by linarith, fun heq => ?_⟩
    have hmin' : unitsOf (min (i + 1) infMag) = unitsOf (i + 1) := by
      exact_mod_cast hmin.antisymm (by linarith)
    rw [unitsOf_strictMono.injective hmin']
    exact heven (by linarith)
  below hm j hj := by
    have hn : min n infMag = n := min_eq_left (by omega)
    rw [hn] at hj ⊢
    obtain ⟨hle, heven⟩ := hhigh
    have hnj : (unitsOf (n + 1) : ℝ) ≤ unitsOf j := unitsOf_real_le.2 hj
    exact ⟨by linarith, fun heq => heven (by linarith)⟩

/-- The rounding of a number between two neighbours is settled by their midpoint. -/
theorem RoundsTo.of_floor (hl : unitsOf m ≤ v) (hu : v < unitsOf (m + 1))
    (hlt : 2 * v < unitsOf m + unitsOf (m + 1) → n = m)
    (heq : 2 * v = unitsOf m + unitsOf (m + 1) → n = m + m % 2)
    (hgt : unitsOf m + unitsOf (m + 1) < 2 * v → n = m + 1) : RoundsTo v (min n infMag) := by
  have hdown : (2 * v = unitsOf m + unitsOf (m + 1) → Even m) → 2 * v ≤ unitsOf m + unitsOf (m + 1) →
      RoundsTo v (min m infMag) := fun heven hle => by
    refine .of_neighbours (fun j hj => ?_) ⟨hle, heven⟩
    have hj' : (unitsOf j : ℝ) < unitsOf m := unitsOf_real_lt.2 (by omega)
    exact ⟨by linarith, fun h => by linarith⟩
  have hup : (2 * v = unitsOf m + unitsOf (m + 1) → Even (m + 1)) → unitsOf m + unitsOf (m + 1) ≤ 2 * v →
      RoundsTo v (min (m + 1) infMag) := fun heven hle => by
    have hnext : (unitsOf (m + 1) : ℝ) < unitsOf (m + 1 + 1) := unitsOf_real_lt.2 (by omega)
    refine .of_neighbours (fun j hj => ?_) ⟨by linarith, fun h => by linarith⟩
    obtain rfl : j = m := by omega
    exact ⟨hle, fun h => heven h.symm⟩
  rcases lt_trichotomy (2 * v) (unitsOf m + unitsOf (m + 1)) with h | h | h
  · rw [hlt h]
    exact hdown (fun h' => absurd h' h.ne) h.le
  · rw [heq h]
    rcases Nat.mod_two_eq_zero_or_one m with hm | hm
    · rw [hm]
      exact hdown (fun _ => Nat.even_iff.2 hm) h.le
    · rw [hm]
      exact hup (fun _ => Nat.even_iff.2 (by omega)) h.ge
  · rw [hgt h]
    exact hup (fun h' => absurd h' h.ne') h.le

end

/-! ### `roundUnits` -/

section
variable {num den : Nat}

/-- `dropBits` leaves a significand of 53 bits, or all of a smaller number. -/
theorem div_two_pow_dropBits (q : Nat) : q / 2 ^ dropBits q < 2 ^ 53 ∧ (dropBits q = 0 ∨ 2 ^ 52 ≤ q / 2 ^ dropBits q) := by
  unfold dropBits
  have hhigh : q < 2 ^ 53 * 2 ^ (Nat.log2 q - 52) := by
    rw [← pow_add]
    exact Nat.lt_log2_self.trans_le (Nat.pow_le_pow_right (by decide) (by omega))
  refine ⟨(Nat.div_lt_iff_lt_mul (Nat.two_pow_pos _)).2 hhigh, ?_⟩
  rcases Nat.eq_zero_or_pos (Nat.log2 q - 52) with h | h
  · exact .inl h
  · refine .inr ((Nat.le_div_iff_mul_le (Nat.two_pow_pos _)).2 ?_)
    have hq : q ≠ 0 := by
      rintro rfl
      simp at h
    rw [← pow_add, show 52 + (Nat.log2 q - 52) = Nat.log2 q by omega]
    exact Nat.log2_self_le hq

theorem roundDiv_cases (num D : Nat) :
    (2 * num < (2 * (num / D) + 1) * D → roundDiv num D = num / D) ∧
    (2 * num = (2 * (num / D) + 1) * D → roundDiv num D = num / D + num / D % 2) ∧
    ((2 * (num / D) + 1) * D < 2 * num → roundDiv num D = num / D + 1) := by
  have hsplit : (2 * (num / D) + 1) * D + 2 * (num % D) = 2 * num + D := by
    linarith [Nat.div_add_mod num D]
  unfold roundDiv
  refine ⟨fun h => ?_, fun h => ?_, fun h => ?_⟩
  · rw [if_neg (by omega), if_neg (by simp; omega)]
  · rw [if_neg (by omega), if_pos (by simp; omega)]
  · rw [if_pos (by omega)]

theorem roundUnits_roundsTo (num : Nat) (hden : 0 < den) : RoundsTo (num / den) (roundUnits num den) := by
  set k := dropBits (num / den) with hk
  set f := num / (den * 2 ^ k) with hf
  obtain ⟨hf53, hf52⟩ : f < 2 ^ 53 ∧ (k = 0 ∨ 2 ^ 52 ≤ f) := by
    rw [hf, ← Nat.div_div_eq_div_mul]
    exact div_two_pow_dropBits _
  have hD : 0 < den * 2 ^ k := Nat.mul_pos hden (Nat.two_pow_pos k)
  have hden' : (0 : ℝ) < den := Nat.cast_pos.2 hden
  have hm : unitsOf (f + k * 2 ^ 52) = f * 2 ^ k := unitsOf_add_mul hf53.le hf52
  have hm1 : unitsOf (f + k * 2 ^ 52 + 1) = (f + 1) * 2 ^ k := by
    rw [Nat.add_right_comm, unitsOf_add_mul hf53 (hf52.imp_right Nat.le_succ_of_le)]
  have hmid : ((unitsOf (f + k * 2 ^ 52) : ℝ) + unitsOf (f + k * 2 ^ 52 + 1)) * den = ((2 * f + 1) * (den * 2 ^ k) : Nat) := by
    rw [hm, hm1]
    push_cast
    ring
  have htwice : 2 * (num / den : ℝ) * den = (2 * num : Nat) := by
    rw [mul_assoc, div_mul_cancel₀ _ hden'.ne']
    push_cast
    rfl
  obtain ⟨hlt, heq, hgt⟩ := roundDiv_cases num (den * 2 ^ k)
  have heven : (f + k * 2 ^ 52) % 2 = f % 2 := by omega
  refine .of_floor (m := f + k * 2 ^ 52) ?_ ?_ (fun h => ?_) (fun h => ?_) (fun h => ?_)
  · rw [hm, le_div_iff₀ hden']
    exact_mod_cast (by rw [mul_assoc, mul_comm (2 ^ k)]; exact Nat.div_mul_le_self num _)
  · rw [hm1, div_lt_iff₀ hden']
    exact_mod_cast (by rw [mul_assoc, mul_comm (2 ^ k), mul_comm]; exact Nat.lt_mul_div_succ num hD)
  · rw [hlt (by rw [← mul_lt_mul_iff_left₀ hden', htwice, hmid] at h; exact_mod_cast h)]
  · rw [heq (by rw [← mul_left_inj' hden'.ne', htwice, hmid] at h; exact_mod_cast h), heven, Nat.add_right_comm]
  · rw [hgt (by rw [← mul_lt_mul_iff_left₀ hden', htwice, hmid] at h; exact_mod_cast h), Nat.add_right_comm]

theorem roundUnits_le_infMag (num den : Nat) : roundUnits num den ≤ infMag := min_le_right _ _

theorem roundUnits_lt (num den : Nat) : roundUnits num den < 2 ^ 63 := lt_two_pow_of_le_infMag (roundUnits_le_infMag num den)

/-- A whole number that is the value of magnitude bits is rounded to them. -/
theorem roundUnits_of_unitsOf_eq {m n : Nat} (hm : m ≤ infMag) (h : unitsOf m = n) : roundUnits n 1 = m :=
  (roundUnits_roundsTo n one_pos).eq_of_eq_unitsOf hm (by rw [h]; simp)

/-- R91's threshold over natural numbers. -/
theorem roundUnits_eq_infMag_iff (num : Nat) (hden : 0 < den) :
    roundUnits num den = infMag ↔ (2 ^ 2098 - 2 ^ 2044) * den ≤ num := by
  have hpow : 2 ^ 2044 ≤ 2 ^ 2098 := by gcongr <;> decide
  rw [(roundUnits_roundsTo num hden).eq_infMag_iff, le_div_iff₀ (Nat.cast_pos.2 hden), ← Nat.cast_le (α := ℝ), Nat.cast_mul,
    Nat.cast_sub hpow, Nat.cast_pow, Nat.cast_pow, Nat.cast_ofNat]

theorem roundUnits_nearestEven (hden : 0 < den) (h : num < (2 ^ 2098 - 2 ^ 2044) * den) :
    NearestEven num den (roundUnits num den) := by
  refine (roundUnits_roundsTo num hden).nearestEven hden ((roundUnits_le_infMag num den).lt_of_ne fun heq => ?_)
  exact (Nat.not_le.2 h) ((roundUnits_eq_infMag_iff num hden).1 heq)

end

/-- Settles O39: the threshold and the nearness of `roundUnits`. -/
theorem roundingIsNearestEven : Obligations.RoundingIsNearestEven := fun num _ hden =>
  ⟨roundUnits_eq_infMag_iff num hden, roundUnits_nearestEven hden⟩

end Sys2Proof.Machine
end

section
/-! The arithmetic primitives (spec 40_numerics.md R91 to R94, R96, R105, R106): each finite result is one rounding of the exact one under
the sign of the exact one, and the special cases are read off the definitions. -/

namespace Sys2Proof.Machine

/-! ### A pattern that packs a sign and a rounding -/

section
variable {s : Bool} {num den : Nat}

theorem signBit_packBits_roundUnits : signBit (packBits s (roundUnits num den)) = s := signBit_packBits (roundUnits_lt num den)

theorem magBits_packBits_roundUnits : magBits (packBits s (roundUnits num den)) = roundUnits num den :=
  magBits_packBits (roundUnits_lt num den)

/-- What the obligations say of every finite result: its sign, the overflow, and the nearness below the threshold. -/
theorem packBits_roundUnits_correct (hden : 0 < den) :
    signBit (packBits s (roundUnits num den)) = s ∧
    ((2 ^ 2098 - 2 ^ 2044) * den ≤ num → isInf (packBits s (roundUnits num den)) = true) ∧
    (num < (2 ^ 2098 - 2 ^ 2044) * den → NearestEven num den (magBits (packBits s (roundUnits num den)))) := by
  rw [isInf_iff, magBits_packBits_roundUnits]
  exact ⟨signBit_packBits_roundUnits, (roundUnits_eq_infMag_iff num hden).2, roundUnits_nearestEven hden⟩

@[simp] theorem isInf_packBits_infMag : isInf (packBits s infMag) = true := isInf_iff.2 (magBits_packBits infMag_lt)

@[simp] theorem signBit_packBits_infMag : signBit (packBits s infMag) = s := signBit_packBits infMag_lt

@[simp] theorem isZero_packBits_zero : isZero (packBits s 0) = true := isZero_iff.2 (magBits_packBits (by decide))

@[simp] theorem signBit_packBits_zero : signBit (packBits s 0) = s := signBit_packBits (by decide)

end

section
variable {a b : F64}

/-! ### The sign of a value -/

theorem valueOf_neg_iff (hz : isZero a = false) : valueOf a < 0 ↔ signBit a = true := by
  have hpos : 0 < unitsOf (magBits a) := unitsOf_pos (isZero_eq_false_iff.1 hz)
  unfold valueOf
  split <;> simp_all

theorem valueOf_of_signBit_eq_false (h : signBit a = false) : valueOf a = unitsOf (magBits a) := if_neg (by simp [h])

/-! ### Negation (R96) -/

section
variable (h : isNaN a = false)
include h

theorem fneg_of_not_isNaN : fneg a = packBits (!signBit a) (magBits a) := if_neg (by simp [h])

theorem magBits_fneg : magBits (fneg a) = magBits a := by rw [fneg_of_not_isNaN h, magBits_packBits (magBits_lt a)]

theorem signBit_fneg : signBit (fneg a) = !signBit a := by rw [fneg_of_not_isNaN h, signBit_packBits (magBits_lt a)]

theorem valueOf_fneg : valueOf (fneg a) = -valueOf a := by
  rw [valueOf, valueOf, signBit_fneg h, magBits_fneg h]
  cases signBit a <;> simp

theorem isFinite_fneg : isFinite (fneg a) = isFinite a := by rw [isFinite, magBits_fneg h, isFinite]

end

/-! ### Addition (R91) -/

theorem fadd_of_isNaN (h : isNaN a = true ∨ isNaN b = true) : fadd a b = qNaN := if_pos (by simpa using h)

theorem fadd_unlike_infinities (ha : isInf a = true) (hb : isInf b = true) (hs : signBit a ≠ signBit b) : fadd a b = qNaN := by
  simp [fadd, ha, hb, hs]

theorem fadd_infinity_left (ha : isInf a = true) (hb : isFinite b = true ∨ b = a) : fadd a b = a := by
  rcases hb with hb | rfl
  · simp [fadd, ha, not_isNaN_of_isInf ha, not_isNaN_of_isFinite hb, not_isInf_of_isFinite hb]
  · simp [fadd, ha, not_isNaN_of_isInf ha]

theorem fadd_infinity_right (hb : isInf b = true) (ha : isFinite a = true ∨ a = b) : fadd a b = b := by
  rcases ha with ha | rfl
  · simp [fadd, hb, not_isNaN_of_isInf hb, not_isNaN_of_isFinite ha, not_isInf_of_isFinite ha]
  · exact fadd_infinity_left hb (.inr rfl)

section
variable (ha : isFinite a = true) (hb : isFinite b = true)
include ha hb

theorem fadd_of_isFinite : fadd a b = faddFinite a b := by
  simp [fadd, not_isNaN_of_isFinite ha, not_isNaN_of_isFinite hb, not_isInf_of_isFinite ha, not_isInf_of_isFinite hb]

theorem fadd_of_sum_eq_zero (h : valueOf a + valueOf b = 0) : fadd a b = packBits (signBit a && signBit b) 0 := by
  rw [fadd_of_isFinite ha hb, faddFinite]
  exact if_pos (beq_iff_eq.2 h)

theorem fadd_of_sum_ne_zero (h : valueOf a + valueOf b ≠ 0) :
    fadd a b = packBits (valueOf a + valueOf b < 0) (roundUnits (valueOf a + valueOf b).natAbs 1) := by
  rw [fadd_of_isFinite ha hb, faddFinite]
  exact if_neg (mt beq_iff_eq.1 h)

end

/-- Settles O40: the special cases, the exact zero sum, and one rounding of every other finite sum. -/
theorem addIsCorrectlyRounded : Obligations.AddIsCorrectlyRounded := by
  intro a b
  refine ⟨fadd_of_isNaN, fadd_unlike_infinities, fadd_infinity_left, fadd_infinity_right, fun ha hb h => ?_, fun ha hb h => ?_⟩
  · rw [fadd_of_sum_eq_zero ha hb h]
    cases signBit a <;> cases signBit b <;> decide
  · rw [fadd_of_sum_ne_zero ha hb h]
    simpa only [Nat.mul_one] using packBits_roundUnits_correct one_pos

/-! ### Subtraction (R92) -/

theorem fsub_of_not_isNaN (ha : isNaN a = false) (hb : isNaN b = false) : fsub a b = fadd a (fneg b) := by simp [fsub, ha, hb]

theorem fsub_of_isNaN (h : isNaN a = true ∨ isNaN b = true) : fsub a b = qNaN := if_pos (by simpa using h)

theorem fsub_self (ha : isFinite a = true) : fsub a a = 0#64 := by
  have hn := not_isNaN_of_isFinite ha
  rw [fsub_of_not_isNaN hn hn,
    fadd_of_sum_eq_zero ha ((isFinite_fneg hn).trans ha) (by rw [valueOf_fneg hn, add_neg_cancel]), signBit_fneg hn,
    Bool.and_not_self]
  rfl

/-- Adding `-0.0` changes nothing: the value is exact, and the sign of a zero stays. -/
theorem fadd_negZero (ha : isNaN a = false) : fadd a (packBits true 0) = a := by
  rcases isFinite_or_isInf_of_not_isNaN ha with hf | hi
  · have hz : isFinite (packBits true 0) = true := by decide
    have hsum : valueOf a + valueOf (packBits true 0) = valueOf a := by
      rw [valueOf_eq_zero_iff.2 isZero_packBits_zero, add_zero]
    by_cases h : isZero a = true
    · rw [fadd_of_sum_eq_zero hf hz (hsum.trans (valueOf_eq_zero_iff.2 h)), signBit_packBits_zero, Bool.and_true,
        ← isZero_iff.1 h, packBits_signBit_magBits]
    · rw [fadd_of_sum_ne_zero hf hz (by rwa [hsum, Ne, valueOf_eq_zero_iff]), hsum, natAbs_valueOf,
        roundUnits_of_unitsOf_eq (isFinite_iff.1 hf).le rfl]
      simp only [valueOf_neg_iff (Bool.eq_false_iff.2 h), Bool.decide_eq_true, packBits_signBit_magBits]
  · exact fadd_infinity_left hi (.inl (by decide))

/-- Settles O44: the two cases of the definition, an exact zero sum, and a sum with `-0.0`. -/
theorem subtractionIsAdditionOfTheNegation : Obligations.SubtractionIsAdditionOfTheNegation :=
  ⟨fun _ _ => fsub_of_not_isNaN, fun _ _ => fsub_of_isNaN, fun _ => fsub_self, by decide,
    fun _ h => (fsub_of_not_isNaN h (by decide)).trans (fadd_negZero h)⟩

/-! ### Multiplication (R93) -/

theorem fmul_of_isNaN (h : isNaN a = true ∨ isNaN b = true) : fmul a b = qNaN := if_pos (by simpa using h)

theorem fmul_comm (a b : F64) : fmul a b = fmul b a := by
  simp only [fmul, Bool.or_comm (isNaN a), Bool.or_comm (isInf a), Bool.or_comm (isZero a), Nat.mul_comm (unitsOf (magBits a)),
    bne_comm (a := signBit a)]

theorem fmul_zero_infinity (ha : isZero a = true) (hb : isInf b = true) : fmul a b = qNaN := by simp [fmul, ha, hb]

theorem fmul_infinity (ha : isInf a = true) (hb : isNaN b = false) (hz : isZero b = false) :
    fmul a b = packBits (signBit a != signBit b) infMag := by
  simp [fmul, ha, hb, hz, not_isNaN_of_isInf ha, not_isZero_of_isInf ha]

theorem fmul_of_isFinite (ha : isFinite a = true) (hb : isFinite b = true) :
    fmul a b = packBits (signBit a != signBit b) (roundUnits (unitsOf (magBits a) * unitsOf (magBits b)) (2 ^ unitBits)) := by
  simp [fmul, not_isNaN_of_isFinite ha, not_isNaN_of_isFinite hb, not_isInf_of_isFinite ha, not_isInf_of_isFinite hb]

/-- Settles O41: the special cases in both orders of the operands, and one rounding of every finite product. -/
theorem mulIsCorrectlyRounded : Obligations.MulIsCorrectlyRounded := by
  intro a b
  refine ⟨fmul_of_isNaN, fun ha hb => ?_, fun ha hb hz => ?_, fun ha hb => ?_⟩
  · rw [fmul_comm b]
    exact ⟨fmul_zero_infinity ha hb, fmul_zero_infinity ha hb⟩
  · rw [fmul_comm b, fmul_infinity ha hb hz]
    simp only [isInf_packBits_infMag, signBit_packBits_infMag, and_self]
  · have hone : 0 < 2 ^ unitBits := Nat.two_pow_pos _
    rw [fmul_of_isFinite ha hb, Int.natAbs_mul, natAbs_valueOf, natAbs_valueOf]
    rw [unitBits] at hone ⊢
    exact packBits_roundUnits_correct hone

/-! ### Division (R94) -/

theorem fdiv_of_isNaN (h : isNaN a = true ∨ isNaN b = true) : fdiv a b = qNaN := if_pos (by simpa using h)

theorem fdiv_infinities (ha : isInf a = true) (hb : isInf b = true) : fdiv a b = qNaN := by simp [fdiv, ha, hb]

section
variable (ha : isFinite a = true)
include ha

theorem fdiv_by_infinity (hb : isInf b = true) : fdiv a b = packBits (signBit a != signBit b) 0 := by
  simp [fdiv, hb, not_isNaN_of_isFinite ha, not_isInf_of_isFinite ha, not_isNaN_of_isInf hb]

variable (hb : isFinite b = true)
include hb

theorem fdiv_of_isFinite : fdiv a b =
    if isZero b then (if isZero a then qNaN else packBits (signBit a != signBit b) infMag)
    else packBits (signBit a != signBit b) (roundUnits (unitsOf (magBits a) * 2 ^ unitBits) (unitsOf (magBits b))) := by
  simp [fdiv, not_isNaN_of_isFinite ha, not_isInf_of_isFinite ha, not_isNaN_of_isFinite hb, not_isInf_of_isFinite hb]

end

theorem roundUnits_zero {den : Nat} (hden : 0 < den) : roundUnits 0 den = 0 :=
  (roundUnits_roundsTo 0 hden).eq_of_eq_unitsOf (Nat.zero_le _) (by simp)

/-- Settles O42: the special cases, and one rounding of every quotient by a finite value that is no zero. -/
theorem divIsCorrectlyRounded : Obligations.DivIsCorrectlyRounded := by
  intro a b
  refine ⟨fdiv_of_isNaN, fun ha hb => ?_, fdiv_infinities, fun ha hz hb => ?_, fun ha hb => ?_, fun ha hb hz => ?_⟩
  · rw [fdiv_of_isFinite (isFinite_of_isZero ha) (isFinite_of_isZero hb), if_pos hb, if_pos ha]
    rfl
  · rw [fdiv_of_isFinite ha (isFinite_of_isZero hb), if_pos hb, if_neg (by simp [hz])]
    exact ⟨isInf_packBits_infMag, signBit_packBits_infMag⟩
  · rw [fdiv_by_infinity ha hb]
    exact ⟨isZero_packBits_zero, signBit_packBits_zero⟩
  · have hpos : 0 < unitsOf (magBits b) := unitsOf_pos (isZero_eq_false_iff.1 hz)
    rw [fdiv_of_isFinite ha hb, if_neg (by simp [hz]), unitBits, natAbs_valueOf, natAbs_valueOf]
    obtain ⟨hsign, hinf, hnear⟩ := packBits_roundUnits_correct (s := signBit a != signBit b)
      (num := unitsOf (magBits a) * 2 ^ 1074) hpos
    refine ⟨hsign, fun ha0 => ?_, hinf, hnear⟩
    rw [isZero_iff.1 ha0, unitsOf_zero, Nat.zero_mul, roundUnits_zero hpos]
    exact isZero_packBits_zero

/-! ### Comparison (R105) -/

theorem fge_iff : fge a b = true ↔ isNaN a = false ∧ isNaN b = false ∧ orderKey b ≤ orderKey a := by
  simp [fge, and_assoc]

theorem fge_of_isNaN (h : isNaN a = true ∨ isNaN b = true) : fge a b = false := by
  rcases h with h | h <;> simp [fge, h]

/-- The magnitude bits of two patterns are in the order of their values, whatever the signs. -/
theorem orderKey_le_iff : orderKey b ≤ orderKey a ↔ valueOf b ≤ valueOf a := by
  have hle := unitsOf_strictMono.le_iff_le (a := magBits b) (b := magBits a)
  have hge := unitsOf_strictMono.le_iff_le (a := magBits a) (b := magBits b)
  have ha := unitsOf_strictMono.injective.eq_iff' unitsOf_zero (a := magBits a)
  have hb := unitsOf_strictMono.injective.eq_iff' unitsOf_zero (a := magBits b)
  unfold orderKey valueOf
  cases signBit a <;> cases signBit b <;> simp only [Bool.false_eq_true, if_true, if_false] <;> omega

theorem orderKey_le : orderKey a ≤ magBits a := by
  unfold orderKey
  split <;> omega

theorem neg_le_orderKey : -(magBits a : Int) ≤ orderKey a := by
  unfold orderKey
  split <;> omega

theorem orderKey_posInf : orderKey 0x7FF0000000000000#64 = infMag := by decide

theorem orderKey_negInf : orderKey 0xFFF0000000000000#64 = -infMag := by decide

/-- Settles O45: the key orders finite patterns as their values, and the infinities have the extreme keys. -/
theorem compareIsTheOrderOfValues : Obligations.CompareIsTheOrderOfValues := by
  intro a b
  have ha := @orderKey_le a
  have hb := @orderKey_le b
  have ha' := @neg_le_orderKey a
  have hb' := @neg_le_orderKey b
  refine ⟨fge_of_isNaN, fun hfa hfb => ?_, fun hnb => ?_, fun hna => ?_, fun hfb => ?_, fun hfa => ?_, by decide⟩
  · rw [fge_iff, orderKey_le_iff]
    exact ⟨fun h => h.2.2, fun h => ⟨not_isNaN_of_isFinite hfa, not_isNaN_of_isFinite hfb, h⟩⟩
  · have hle := isNaN_eq_false_iff.1 hnb
    exact fge_iff.2 ⟨by decide, hnb, by rw [orderKey_posInf]; omega⟩
  · have hle := isNaN_eq_false_iff.1 hna
    exact fge_iff.2 ⟨hna, by decide, by rw [orderKey_negInf]; omega⟩
  · have hlt := isFinite_iff.1 hfb
    rw [Bool.eq_false_iff, Ne, fge_iff, orderKey_negInf]
    omega
  · have hlt := isFinite_iff.1 hfa
    rw [Bool.eq_false_iff, Ne, fge_iff, orderKey_posInf]
    omega

end

/-! ### The conversion of a counter (R106) -/

/-- Settles O46: a number of 53 bits is the value of magnitude bits, so it is rounded to itself. -/
theorem counterConversionIsExact : Obligations.CounterConversionIsExact := by
  intro n hn
  obtain ⟨m, hm⟩ := exists_unitsOf_eq unitBits hn
  have hlt : m < infMag := by
    rw [← unitsOf_strictMono.lt_iff_lt, hm, unitsOf_infMag]
    calc n * 2 ^ unitBits < 2 ^ 53 * 2 ^ unitBits := Nat.mul_lt_mul_of_pos_right hn (Nat.two_pow_pos _)
      _ = 2 ^ (53 + unitBits) := (pow_add ..).symm
      _ ≤ 2 ^ 2098 := by gcongr <;> decide
  have hpack : u2f n = packBits false m := congrArg _ (roundUnits_of_unitsOf_eq hlt.le hm)
  have h63 := lt_two_pow_of_le_infMag hlt.le
  have hsign : signBit (u2f n) = false := by rw [hpack, signBit_packBits h63]
  refine ⟨by rw [isFinite_iff, hpack, magBits_packBits h63]; exact hlt, hsign, ?_⟩
  rw [valueOf_of_signBit_eq_false hsign, hpack, magBits_packBits h63, hm, unitBits, Nat.cast_mul, Nat.cast_pow, Nat.cast_ofNat]

end Sys2Proof.Machine
end

section
/-! The square root (spec 40_numerics.md R95): the search finds the pattern below the real root, and the root is never a midpoint. -/

namespace Sys2Proof.Machine

/-! ### Nearness among signed values -/

section
variable {v : ℝ} {m j : Nat}

/-- Where `v` is no midpoint of two neighbours, every other magnitude is farther from it than its rounding. -/
theorem RoundsTo.dist_lt (h : RoundsTo v m) (hm : m < infMag) (hmid : ∀ i, 2 * v ≠ unitsOf i + unitsOf (i + 1)) (hj : j ≠ m) :
    |v - unitsOf m| < |v - unitsOf j| := by
  refine (h.dist_le hm j).1.lt_of_ne fun heq => ?_
  have hsum : 2 * v = unitsOf m + unitsOf j := by
    rcases abs_eq_abs.1 heq with heq | heq
    · exact absurd (unitsOf_strictMono.injective (by exact_mod_cast (show (unitsOf j : ℝ) = unitsOf m by linarith))) hj
    · linarith
  rcases hj.lt_or_gt with hlt | hlt
  · rcases (Nat.succ_le_of_lt hlt).lt_or_eq with hnext | rfl
    · linarith [(h.above _ hnext).1, unitsOf_real_lt.2 j.lt_succ_self]
    · exact hmid j (by rw [hsum, add_comm])
  · rcases (Nat.succ_le_of_lt hlt).lt_or_eq with hnext | rfl
    · linarith [(h.below hm _ (Nat.lt_succ_self m)).1, unitsOf_real_lt.2 hnext]
    · exact hmid m hsum

theorem abs_valueOf (z : F64) : |(valueOf z : ℝ)| = unitsOf (magBits z) := by
  rw [← Int.cast_abs, Int.abs_eq_natAbs, natAbs_valueOf, Int.cast_natCast]

/-- A value of the wrong sign is no nearer to a number that is not negative. -/
theorem abs_sub_unitsOf_le (hv : 0 ≤ v) (z : F64) : |v - unitsOf (magBits z)| ≤ |v - valueOf z| := by
  have h := abs_abs_sub_abs_le_abs_sub v (valueOf z)
  rwa [abs_of_nonneg hv, abs_valueOf] at h

end

/-! ### The search -/

theorem sqrtFloorBits_spec {target n acc : Nat} (hl : unitsOf acc * unitsOf acc ≤ target)
    (hu : target < unitsOf (acc + 2 ^ n) * unitsOf (acc + 2 ^ n)) :
    unitsOf (sqrtFloorBits target n acc) * unitsOf (sqrtFloorBits target n acc) ≤ target ∧
    target < unitsOf (sqrtFloorBits target n acc + 1) * unitsOf (sqrtFloorBits target n acc + 1) := by
  induction n generalizing acc with
  | zero => exact ⟨hl, hu⟩
  | succ n ih =>
    simp only [sqrtFloorBits]
    split
    · next h => exact ih h (by rwa [Nat.add_assoc, ← Nat.two_mul, ← pow_succ'])
    · next h => exact ih hl (not_le.1 h)

/-! ### Twice the root against a midpoint, by their squares -/

section
variable {t s : Nat}

theorem mul_self_two_mul_sqrt : 2 * √(t : ℝ) * (2 * √(t : ℝ)) = (4 * t : Nat) := by
  rw [mul_mul_mul_comm, Real.mul_self_sqrt (Nat.cast_nonneg _)]
  push_cast
  ring

theorem two_mul_sqrt_nonneg : 0 ≤ 2 * √(t : ℝ) := mul_nonneg zero_le_two (Real.sqrt_nonneg _)

theorem two_mul_sqrt_lt_iff : 2 * √(t : ℝ) < s ↔ 4 * t < s * s := by
  rw [mul_self_lt_mul_self_iff two_mul_sqrt_nonneg (Nat.cast_nonneg _), mul_self_two_mul_sqrt, ← Nat.cast_mul, Nat.cast_lt]

theorem lt_two_mul_sqrt_iff : s < 2 * √(t : ℝ) ↔ s * s < 4 * t := by
  rw [mul_self_lt_mul_self_iff (Nat.cast_nonneg _) two_mul_sqrt_nonneg, mul_self_two_mul_sqrt, ← Nat.cast_mul, Nat.cast_lt]

theorem two_mul_sqrt_eq_iff : 2 * √(t : ℝ) = s ↔ 4 * t = s * s := by
  rw [← mul_self_inj two_mul_sqrt_nonneg (Nat.cast_nonneg _), mul_self_two_mul_sqrt, ← Nat.cast_mul, Nat.cast_inj]

end

/-! ### The root of a finite value -/

/-- Magnitude bits of `2^512`, above the root of every finite value. -/
def rootBound : Nat := 1535 * 2 ^ 52

theorem unitsOf_rootBound : unitsOf rootBound = 2 ^ 1586 := by
  rw [show rootBound = 2 ^ 52 + 1534 * 2 ^ 52 by decide, unitsOf_add_mul (by decide) (.inr le_rfl), ← pow_add]

/-- The pattern below the root, and which of it and the next one the midpoint decides for. -/
theorem sqrtUnits_cases {n : Nat} (htop : n * 2 ^ unitBits < unitsOf rootBound * unitsOf rootBound) :
    ∃ m, unitsOf m * unitsOf m ≤ n * 2 ^ unitBits ∧ n * 2 ^ unitBits < unitsOf (m + 1) * unitsOf (m + 1) ∧
      (4 * (n * 2 ^ unitBits) < (unitsOf m + unitsOf (m + 1)) * (unitsOf m + unitsOf (m + 1)) → sqrtUnits n = m) ∧
      (4 * (n * 2 ^ unitBits) = (unitsOf m + unitsOf (m + 1)) * (unitsOf m + unitsOf (m + 1)) → sqrtUnits n = m + m % 2) ∧
      ((unitsOf m + unitsOf (m + 1)) * (unitsOf m + unitsOf (m + 1)) < 4 * (n * 2 ^ unitBits) → sqrtUnits n = m + 1) := by
  have hmono : unitsOf rootBound ≤ unitsOf (0 + 2 ^ 63) := unitsOf_strictMono.monotone (by decide)
  obtain ⟨hl, hu⟩ := sqrtFloorBits_spec (by simp) (htop.trans_le (Nat.mul_le_mul hmono hmono))
  refine ⟨_, hl, hu, ?_⟩
  simp only [sqrtUnits, beq_iff_eq]
  generalize sqrtFloorBits (n * 2 ^ unitBits) 63 0 = m
  generalize (unitsOf m + unitsOf (m + 1)) * (unitsOf m + unitsOf (m + 1)) = mid
  generalize 4 * (n * 2 ^ unitBits) = target
  exact ⟨fun h => by rw [if_neg h.not_gt, if_neg h.ne'], fun h => by rw [if_neg h.not_gt, if_pos h.symm], fun h => if_pos h⟩

section
variable {n : Nat} (hn : n < unitsOf infMag)
include hn

theorem mul_two_pow_unitBits_lt : n * 2 ^ unitBits < unitsOf rootBound * unitsOf rootBound := by
  have hsq : unitsOf infMag * 2 ^ unitBits = unitsOf rootBound * unitsOf rootBound := by
    rw [unitsOf_infMag, unitsOf_rootBound, ← pow_add, ← pow_add, unitBits]
  rw [← hsq]
  exact Nat.mul_lt_mul_of_pos_right hn (Nat.two_pow_pos _)

theorem sqrt_lt_unitsOf_rootBound : √(n * 2 ^ unitBits : Nat) < unitsOf rootBound := by
  rw [Real.sqrt_lt' (Nat.cast_pos.2 (unitsOf_pos (by decide))), sq]
  exact_mod_cast mul_two_pow_unitBits_lt hn

theorem sqrtUnits_roundsTo : RoundsTo √(n * 2 ^ unitBits : Nat) (sqrtUnits n) := by
  have hbound := sqrt_lt_unitsOf_rootBound hn
  have htop := mul_two_pow_unitBits_lt hn
  obtain ⟨m, hl, hu, hlt, heq, hgt⟩ := sqrtUnits_cases htop
  generalize n * 2 ^ unitBits = target at *
  have hmid : (unitsOf m + unitsOf (m + 1) : ℝ) = (unitsOf m + unitsOf (m + 1) : Nat) := (Nat.cast_add _ _).symm
  have hround : RoundsTo √(target : ℝ) (min (sqrtUnits n) infMag) := by
    refine .of_floor (m := m) (Real.le_sqrt_of_sq_le ?_) ((Real.sqrt_lt' ?_).2 ?_) (fun h => ?_) (fun h => ?_) (fun h => ?_)
    · rw [sq]
      exact_mod_cast hl
    · exact Nat.cast_pos.2 (unitsOf_pos m.succ_ne_zero)
    · rw [sq]
      exact_mod_cast hu
    · rw [hmid, two_mul_sqrt_lt_iff] at h
      exact hlt h
    · rw [hmid, two_mul_sqrt_eq_iff] at h
      exact heq h
    · rw [hmid, lt_two_mul_sqrt_iff] at h
      exact hgt h
  have hfin : min (sqrtUnits n) infMag < infMag := (hround.le_of_le_unitsOf hbound.le).trans_lt (by decide)
  rwa [min_eq_left ((min_lt_iff.1 hfin).resolve_right (lt_irrefl _)).le] at hround

theorem sqrtUnits_lt_infMag : sqrtUnits n < infMag :=
  ((sqrtUnits_roundsTo hn).le_of_le_unitsOf (sqrt_lt_unitsOf_rootBound hn).le).trans_lt (by decide)

end

/-! ### A root is never a midpoint -/

/-- An odd square times a power of two has no fewer significant bits than the square. -/
theorem odd_sq_mul_two_pow_ne {f s i j : Nat} (hs : 0 < s) (hf : s < 2 * f + 1) : (2 * f + 1) ^ 2 * 2 ^ i ≠ s * 2 ^ j := by
  intro heq
  have hcop : Nat.Coprime ((2 * f + 1) ^ 2) (2 ^ j) := (Nat.coprime_two_right.2 (odd_two_mul_add_one f)).pow 2 j
  have hle : (2 * f + 1) ^ 2 ≤ s := Nat.le_of_dvd hs (hcop.dvd_of_dvd_mul_right (Dvd.intro _ heq))
  nlinarith

/-- A midpoint is odd in its lowest place, so its square has at least 107 significant bits; four times a finite value has 53. -/
theorem sq_midpoint_ne {r : Nat} (hr : r ≠ 0) (m : Nat) :
    (unitsOf m + unitsOf (m + 1)) * (unitsOf m + unitsOf (m + 1)) ≠ 4 * (unitsOf r * 2 ^ unitBits) := by
  have hpos := unitsOf_pos hr
  obtain ⟨s, j, hs, hr'⟩ : ∃ s j, s < 2 ^ 53 ∧ unitsOf r = s * 2 ^ j := by
    obtain ⟨s, j, rfl, hs, hj⟩ := exists_significand r
    exact ⟨s, j, hs, unitsOf_add_mul hs.le hj⟩
  obtain ⟨f, k, rfl, hf, hk⟩ := exists_significand m
  have hmid : unitsOf (f + k * 2 ^ 52) + unitsOf (f + k * 2 ^ 52 + 1) = (2 * f + 1) * 2 ^ k := by
    rw [Nat.add_right_comm, unitsOf_add_mul hf.le hk, unitsOf_add_mul hf (hk.imp_right Nat.le_succ_of_le), Nat.succ_eq_add_one]
    ring
  rw [hmid]
  rcases lt_or_ge f (2 ^ 52) with hsub | hnormal
  · -- a subnormal midpoint is too small
    obtain rfl : k = 0 := by omega
    have hsmall : (2 * f + 1) * (2 * f + 1) < 2 ^ 53 * 2 ^ 53 := Nat.mul_lt_mul'' (by omega) (by omega)
    have hbig : 2 ^ 53 * 2 ^ 53 ≤ 4 * (unitsOf r * 2 ^ unitBits) :=
      calc 2 ^ 53 * 2 ^ 53 = 2 ^ 106 := (pow_add ..).symm
        _ ≤ 2 ^ unitBits := Nat.pow_le_pow_right (by decide) (by decide)
        _ ≤ unitsOf r * 2 ^ unitBits := Nat.le_mul_of_pos_left _ hpos
        _ ≤ 4 * (unitsOf r * 2 ^ unitBits) := Nat.le_mul_of_pos_left _ (by decide)
    rw [pow_zero, mul_one]
    exact (hsmall.trans_le hbig).ne
  · rw [show (2 * f + 1) * 2 ^ k * ((2 * f + 1) * 2 ^ k) = (2 * f + 1) ^ 2 * 2 ^ (2 * k) by ring,
      show 4 * (unitsOf r * 2 ^ unitBits) = s * 2 ^ (j + unitBits + 2) by rw [hr', pow_add, pow_add]; ring]
    exact odd_sq_mul_two_pow_ne (Nat.pos_of_ne_zero (by rintro rfl; simp [hr'] at hpos)) (by omega)

/-! ### The obligation -/

section
variable {a : F64}

theorem fsqrt_of_isNaN_or_negative (h : isNaN a = true ∨ (signBit a = true ∧ isZero a = false)) : fsqrt a = qNaN := by
  rcases h with h | ⟨hs, hz⟩
  · exact if_pos h
  · simp [fsqrt, hs, hz]

/-- The root of a value, in units, is the root of the value times `2^1074`. -/
theorem sqrt_valueOf_div (hs : signBit a = false) :
    √((valueOf a : ℝ) / 2 ^ unitBits) = √(unitsOf (magBits a) * 2 ^ unitBits : Nat) / 2 ^ unitBits := by
  have hpos : (0 : ℝ) < 2 ^ unitBits := pow_pos two_pos _
  have hmul : (unitsOf (magBits a) * 2 ^ unitBits : ℝ) = unitsOf (magBits a) / 2 ^ unitBits * (2 ^ unitBits * 2 ^ unitBits) := by
    field_simp
  rw [eq_div_iff hpos.ne', valueOf_of_signBit_eq_false hs, Nat.cast_mul, Nat.cast_pow, Nat.cast_ofNat, Int.cast_natCast,
    hmul, Real.sqrt_mul' _ (mul_self_nonneg _), Real.sqrt_mul_self hpos.le]

section
variable (hf : isFinite a = true) (hs : signBit a = false) (hz : isZero a = false)
include hf hs hz

theorem fsqrt_of_positive : fsqrt a = packBits false (sqrtUnits (unitsOf (magBits a))) := by
  simp [fsqrt, not_isNaN_of_isFinite hf, not_isInf_of_isFinite hf, hs, hz]

theorem fsqrt_sign_finite : signBit (fsqrt a) = false ∧ magBits (fsqrt a) = sqrtUnits (unitsOf (magBits a)) ∧
    isFinite (fsqrt a) = true := by
  have hlt := sqrtUnits_lt_infMag (unitsOf_strictMono (isFinite_iff.1 hf))
  have h63 := lt_two_pow_of_le_infMag hlt.le
  rw [isFinite_iff, fsqrt_of_positive hf hs hz, magBits_packBits h63]
  exact ⟨signBit_packBits h63, rfl, hlt⟩

/-- In units: the root is strictly nearer to its rounding than to every other value. -/
theorem fsqrt_dist (z : F64) :
    |√(unitsOf (magBits a) * 2 ^ unitBits : Nat) - (valueOf (fsqrt a) : ℝ)| ≤
      |√(unitsOf (magBits a) * 2 ^ unitBits : Nat) - (valueOf z : ℝ)| ∧
    (|√(unitsOf (magBits a) * 2 ^ unitBits : Nat) - (valueOf (fsqrt a) : ℝ)| =
      |√(unitsOf (magBits a) * 2 ^ unitBits : Nat) - (valueOf z : ℝ)| → z = fsqrt a) := by
  obtain ⟨hsign, hmag, -⟩ := fsqrt_sign_finite hf hs hz
  have hfin := unitsOf_strictMono (isFinite_iff.1 hf)
  have hround := sqrtUnits_roundsTo hfin
  have hlt := sqrtUnits_lt_infMag hfin
  have hmid := sq_midpoint_ne (isZero_eq_false_iff.1 hz)
  rw [valueOf_of_signBit_eq_false hsign, hmag, Int.cast_natCast]
  have hone : 1 ≤ unitsOf (magBits a) * 2 ^ unitBits :=
    Nat.mul_pos (unitsOf_pos (isZero_eq_false_iff.1 hz)) (Nat.two_pow_pos _)
  generalize unitsOf (magBits a) * 2 ^ unitBits = target at *
  have hsigned := abs_sub_unitsOf_le (Real.sqrt_nonneg target) z
  have hnomid : ∀ i, 2 * √(target : ℝ) ≠ unitsOf i + unitsOf (i + 1) := fun i h =>
    hmid i (two_mul_sqrt_eq_iff.1 (h.trans (Nat.cast_add _ _).symm)).symm
  refine ⟨(hround.dist_le hlt _).1.trans hsigned, fun heq => ?_⟩
  have hmagz : magBits z = sqrtUnits (unitsOf (magBits a)) := by
    by_contra hne
    exact ((hround.dist_lt hlt hnomid hne).trans_le hsigned).ne heq
  -- the root is at least one unit, so it is not as near to the negative value
  have hroot : 1 ≤ √(target : ℝ) := Real.one_le_sqrt.2 (by exact_mod_cast hone)
  have hpos : 1 ≤ sqrtUnits (unitsOf (magBits a)) := hround.le_of_unitsOf_le (by decide) (by simpa [unitsOf] using hroot)
  have hsz : signBit z = false := by
    by_contra hsz
    have hu : (0 : ℝ) < unitsOf (magBits z) := Nat.cast_pos.2 (unitsOf_pos (by omega))
    rw [valueOf, if_pos (by simpa using hsz), ← hmagz, Int.cast_neg, Int.cast_natCast] at heq
    rcases abs_eq_abs.1 heq with h | h <;> linarith
  exact F64.ext (hsz.trans hsign.symm) (hmagz.trans hmag.symm)

end

end

/-- Settles O43: the special cases, and the strict nearness in units, divided by `2^1074`. -/
theorem sqrtIsCorrectlyRounded : Obligations.SqrtIsCorrectlyRounded := by
  refine ⟨by decide, by decide, by decide, fun _ => fsqrt_of_isNaN_or_negative, fun a hf hs hz => ?_⟩
  obtain ⟨hsign, -, hfin⟩ := fsqrt_sign_finite hf hs hz
  refine ⟨hsign, hfin, fun z _ => ?_⟩
  have hpos : (0 : ℝ) < 2 ^ unitBits := pow_pos two_pos _
  have hdist := fsqrt_dist hf hs hz z
  rw [show 1074 = unitBits from rfl]
  simp only [sqrt_valueOf_div hs, ← sub_div, abs_div, abs_of_pos hpos, div_le_div_iff_of_pos_right hpos, div_left_inj' hpos.ne']
  exact hdist

end Sys2Proof.Machine
end

section
/-! The ramp length (spec 40_numerics.md R107), for counters of every width (R9). -/

namespace Sys2Proof.Machine

/-! ### Comparison with a positive constant -/

section
variable {x y : F64}

theorem orderKey_of_signBit_eq_false (h : signBit x = false) : orderKey x = magBits x := if_neg (by simp [h])

/-- What compares at least a positive constant is positive itself, and the magnitudes compare. -/
theorem fge_iff_of_positive (hy : isNaN y = false) (hs : signBit y = false) (hz : isZero y = false) :
    fge x y = true ↔ isNaN x = false ∧ signBit x = false ∧ magBits y ≤ magBits x := by
  have hy0 := isZero_eq_false_iff.1 hz
  rw [fge_iff, orderKey_of_signBit_eq_false hs, orderKey]
  cases signBit x with
  | false => simp [hy]
  | true =>
    have hneg : ¬ (magBits y : Int) ≤ -(magBits x : Int) := by omega
    simp [hneg]

end

/-! ### The value of `2^32 - 1` (R104), and the whole part of a magnitude -/

/-- `4294967295.0` of R104. -/
def counterTop : F64 := 0x41EFFFFFFFE00000#64

theorem unitsOf_counterTop : unitsOf (magBits counterTop) = 4294967295 * 2 ^ unitBits := by
  rw [show magBits counterTop = 4294967295 * 2 ^ 21 + 1053 * 2 ^ 52 by decide, unitsOf_add_mul (by decide) (.inr (by decide)),
    mul_assoc, ← pow_add, unitBits]

section
variable {m n : Nat}

theorem le_wholePart_iff : n ≤ wholePart m ↔ n * 2 ^ unitBits ≤ unitsOf m := Nat.le_div_iff_mul_le (Nat.two_pow_pos _)

theorem wholePart_lt_iff : wholePart m < n ↔ unitsOf m < n * 2 ^ unitBits := Nat.div_lt_iff_lt_mul (Nat.two_pow_pos _)

theorem wholePart_lt_counterTop_iff : wholePart m < 4294967295 ↔ m < magBits counterTop := by
  rw [wholePart_lt_iff, ← unitsOf_counterTop, unitsOf_strictMono.lt_iff_lt]

end

/-! ### The ramp length -/

section
variable {c : Config} {r : F64}

theorem rampLen_of_not_fge (h : fge (fmul c.tSmooth r) one = false) : rampLen c r = 1 := by simp [rampLen, h]

section
variable (h : fge (fmul c.tSmooth r) one = true)
include h

theorem rampLen_of_isInf (hi : isInf (fmul c.tSmooth r) = true) : rampLen c r = maxCount c := by simp [rampLen, h, hi]

theorem rampLen_of_isFinite (hf : isFinite (fmul c.tSmooth r) = true) :
    rampLen c r = min (wholePart (magBits (fmul c.tSmooth r))) (maxCount c) := by simp [rampLen, h, not_isInf_of_isFinite hf]

theorem valueOf_of_fge_one : valueOf (fmul c.tSmooth r) = unitsOf (magBits (fmul c.tSmooth r)) := by
  obtain ⟨-, hs, -⟩ := (fge_iff_of_positive (by decide) (by decide) (by decide)).1 h
  exact valueOf_of_signBit_eq_false hs

/-- Below the largest counter value the ramp length is the floor, exactly. -/
theorem rampLen_floor (hf : isFinite (fmul c.tSmooth r) = true) :
    (rampLen c r * 2 ^ unitBits : Int) ≤ valueOf (fmul c.tSmooth r) ∧
    (valueOf (fmul c.tSmooth r) < (rampLen c r + 1) * 2 ^ unitBits ∨ rampLen c r = maxCount c) := by
  have hlen := rampLen_of_isFinite h hf
  rw [valueOf_of_fge_one h]
  constructor
  · exact_mod_cast le_wholePart_iff.1 (hlen ▸ min_le_left _ _)
  · rcases min_choice (wholePart (magBits (fmul c.tSmooth r))) (maxCount c) with hmin | hmin
    · left
      exact_mod_cast wholePart_lt_iff.1 (Nat.lt_succ_of_le (hlen.trans hmin).ge)
    · exact .inr (hlen.trans hmin)

end

theorem maxCount_of_cntW_eq (hc : c.cntW = 32) : maxCount c = 4294967295 := by simp [maxCount, hc]

/-- From `2^32 - 1` on a 32-bit counter is saturated. -/
theorem rampLen_of_fge_counterTop (hc : c.cntW = 32) (h : fge (fmul c.tSmooth r) counterTop = true) : rampLen c r = 4294967295 := by
  obtain ⟨hn, hs, hle⟩ := (fge_iff_of_positive (by decide) (by decide) (by decide)).1 h
  have hone : fge (fmul c.tSmooth r) one = true :=
    (fge_iff_of_positive (by decide) (by decide) (by decide)).2 ⟨hn, hs, le_trans (by decide) hle⟩
  rcases isFinite_or_isInf_of_not_isNaN hn with hf | hi
  · rw [rampLen_of_isFinite hone hf, maxCount_of_cntW_eq hc]
    exact min_eq_right (not_lt.1 (mt wholePart_lt_counterTop_iff.1 (not_lt.2 hle)))
  · rw [rampLen_of_isInf hone hi, maxCount_of_cntW_eq hc]

/-- Between the two bounds the product is finite, and its floor is less than `2^32 - 1`. -/
theorem rampLen_between (hc : c.cntW = 32) (h : fge (fmul c.tSmooth r) one = true)
    (htop : fge (fmul c.tSmooth r) counterTop = false) : isFinite (fmul c.tSmooth r) = true ∧ rampLen c r < maxCount c := by
  obtain ⟨hn, hs, -⟩ := (fge_iff_of_positive (by decide) (by decide) (by decide)).1 h
  have hlt : magBits (fmul c.tSmooth r) < magBits counterTop := by
    by_contra! hle
    rw [(fge_iff_of_positive (by decide) (by decide) (by decide)).2 ⟨hn, hs, hle⟩] at htop
    contradiction
  have hf : isFinite (fmul c.tSmooth r) = true := isFinite_iff.2 (hlt.trans (by decide))
  refine ⟨hf, ?_⟩
  rw [rampLen_of_isFinite h hf, maxCount_of_cntW_eq hc]
  exact (min_le_left _ _).trans_lt (wholePart_lt_counterTop_iff.2 hlt)

end

/-- Settles O29: the three cases of the rule at 32 bits, the same at any width, and the rule's examples evaluated. -/
theorem rampLengthIsClampedFloor : Obligations.RampLengthIsClampedFloor := by
  refine ⟨fun c r hc => ⟨rampLen_of_not_fge, rampLen_of_fge_counterTop hc, fun h htop => ?_⟩,
    fun c r hw => ⟨one_le_rampLen hw r, rampLen_le c r hw, rampLen_of_not_fge, rampLen_floor, rampLen_of_isInf⟩, ?_⟩
  · obtain ⟨hf, hlt⟩ := rampLen_between hc h htop
    obtain ⟨hfloor, hceil⟩ := rampLen_floor h hf
    have hmax := maxCount_of_cntW_eq hc
    exact ⟨one_le_rampLen (by omega) r, by omega, hfloor, hceil.resolve_right hlt.ne⟩
  · decide +kernel

end Sys2Proof.Machine
end

section
/-! `NUM_REF` meets the laws of every numerics record (spec 40_numerics.md R101 to R103), whatever its free values are. -/

namespace Sys2Proof.Machine

/-! ### Sine and cosine -/

theorem magBits_unitBall_le (y : F64) : magBits (unitBall y) ≤ oneMag := by
  have hlt : magBits y % (oneMag + 1) < oneMag + 1 := Nat.mod_lt _ (Nat.succ_pos _)
  rw [unitBall, magBits_packBits (hlt.trans (by decide))]
  exact Nat.le_of_lt_succ hlt

theorem magBits_packBits_min_le (s : Bool) (m : Nat) : magBits (packBits s (min m oneMag)) ≤ oneMag := by
  have hle : min m oneMag ≤ oneMag := min_le_right _ _
  rwa [magBits_packBits (hle.trans_lt (by decide))]

theorem fsinRef_of_not_isFinite {x : F64} (h : isFinite x = false) : fsinRef x = qNaN := if_pos (by simp [h])

theorem fcosRef_of_not_isFinite {x : F64} (h : isFinite x = false) : fcosRef x = qNaN := if_pos (by simp [h])

theorem fsinRef_of_isZero {x : F64} (h : isZero x = true) : fsinRef x = x := by simp [fsinRef, h, isFinite_of_isZero h]

theorem fcosRef_of_isZero {x : F64} (h : isZero x = true) : fcosRef x = packBits false oneMag := by
  simp [fcosRef, h, isFinite_of_isZero h]

section
variable {x : F64} (hf : isFinite x = true) (hz : isZero x = false)
include hf hz

theorem fsinRef_of_settled {neg : Bool} {m : Nat} (h : ladder.findSome? (trigAt (unitsOf (magBits x)) 0) = some (neg, m)) :
    fsinRef x = packBits (neg != signBit x) (min m oneMag) := by simp [fsinRef, hf, hz, h]

theorem fsinRef_of_unsettled (h : ladder.findSome? (trigAt (unitsOf (magBits x)) 0) = none) :
    fsinRef x = unitBall (Config.unsettledSin x) := by simp [fsinRef, hf, hz, h]

theorem fcosRef_of_settled {neg : Bool} {m : Nat} (h : ladder.findSome? (trigAt (unitsOf (magBits x)) 1) = some (neg, m)) :
    fcosRef x = packBits neg (min m oneMag) := by simp [fcosRef, hf, hz, h]

theorem fcosRef_of_unsettled (h : ladder.findSome? (trigAt (unitsOf (magBits x)) 1) = none) :
    fcosRef x = unitBall (Config.unsettledCos x) := by simp [fcosRef, hf, hz, h]

end

theorem magBits_fsinRef_le {x : F64} (hf : isFinite x = true) : magBits (fsinRef x) ≤ oneMag := by
  cases hz : isZero x with
  | true =>
    rw [fsinRef_of_isZero hz, isZero_iff.1 hz]
    exact Nat.zero_le _
  | false =>
    cases h : ladder.findSome? (trigAt (unitsOf (magBits x)) 0) with
    | none => exact fsinRef_of_unsettled hf hz h ▸ magBits_unitBall_le _
    | some r => exact fsinRef_of_settled hf hz h ▸ magBits_packBits_min_le _ _

theorem magBits_fcosRef_le {x : F64} (hf : isFinite x = true) : magBits (fcosRef x) ≤ oneMag := by
  cases hz : isZero x with
  | true => rw [fcosRef_of_isZero hz, magBits_packBits (by decide)]
  | false =>
    cases h : ladder.findSome? (trigAt (unitsOf (magBits x)) 1) with
    | none => exact fcosRef_of_unsettled hf hz h ▸ magBits_unitBall_le _
    | some r => exact fcosRef_of_settled hf hz h ▸ magBits_packBits_min_le _ _

/-! ### The power of ten -/

section
variable {x : F64}

theorem fexp10Ref_of_isNaN (h : isNaN x = true) : fexp10Ref x = qNaN := if_pos h

/-- Beyond 400 in magnitude, infinities included, the power overflows or vanishes. -/
theorem fexp10Ref_of_far (hn : isNaN x = false) (h : isFinite x = false ∨ 400 * 2 ^ unitBits ≤ unitsOf (magBits x)) :
    fexp10Ref x = if signBit x then posZero else posInf := by
  rcases h with h | h <;> simp [fexp10Ref, hn, h]

section
variable (hf : isFinite x = true) (hnear : unitsOf (magBits x) < 400 * 2 ^ unitBits)
include hf hnear

theorem fexp10Ref_of_near : fexp10Ref x =
    if fracOf x = 0 then packBits false (exp10Int (floorOf x))
    else ((ladder.findSome? (exp10At (floorOf x) (fracOf x))).map (packBits false)).getD
      (packBits false (magBits (Config.unsettledExp10 x) % (infMag + 1))) := by
  simp only [fexp10Ref, not_isNaN_of_isFinite hf, hf, not_le.2 hnear, Bool.not_true, decide_false, Bool.or_self, beq_iff_eq,
    Bool.false_eq_true, if_false]
  split
  · rfl
  · split <;> simp [*]

theorem fexp10Ref_of_integer (h : fracOf x = 0) : fexp10Ref x = packBits false (exp10Int (floorOf x)) := by
  rw [fexp10Ref_of_near hf hnear, if_pos h]

theorem fexp10Ref_of_settled {m : Nat} (h : fracOf x ≠ 0) (hm : ladder.findSome? (exp10At (floorOf x) (fracOf x)) = some m) :
    fexp10Ref x = packBits false m := by
  rw [fexp10Ref_of_near hf hnear, if_neg h, hm]
  rfl

theorem fexp10Ref_of_unsettled (h : fracOf x ≠ 0) (hm : ladder.findSome? (exp10At (floorOf x) (fracOf x)) = none) :
    fexp10Ref x = packBits false (magBits (Config.unsettledExp10 x) % (infMag + 1)) := by
  rw [fexp10Ref_of_near hf hnear, if_neg h, hm]
  rfl

end

theorem settled_eq_some {lo hi : Int} {den m : Nat} (h : settled lo hi den = some m) :
    0 < lo ∧ roundUnits lo.toNat den = m ∧ roundUnits hi.toNat den = m := by
  simp only [settled, Bool.and_eq_true, decide_eq_true_eq, beq_iff_eq] at h
  split at h
  · next hc => cases h; exact ⟨hc.1, rfl, hc.2.symm⟩
  · cases h

theorem exp10At_eq (i : Int) (F P : Nat) : exp10At i F P =
    settled ((exp10Frac P F).1 * (2 ^ unitBits * 10 ^ i.toNat) : Nat) ((exp10Frac P F).2 * (2 ^ unitBits * 10 ^ i.toNat) : Nat)
      (2 ^ P * 10 ^ (-i).toNat) := by
  rw [exp10At]

theorem exp10At_le_infMag {i : Int} {F P m : Nat} (h : exp10At i F P = some m) : m ≤ infMag := by
  rw [exp10At_eq] at h
  obtain ⟨-, hm, -⟩ := settled_eq_some h
  exact hm ▸ roundUnits_le_infMag _ _

theorem packBits_false_range {m : Nat} (hm : m ≤ infMag) :
    isNaN (packBits false m) = false ∧ signBit (packBits false m) = false := by
  have h63 := lt_two_pow_of_le_infMag hm
  rw [isNaN_eq_false_iff, magBits_packBits h63, signBit_packBits h63]
  exact ⟨hm, rfl⟩

theorem fexp10Ref_range (hn : isNaN x = false) : isNaN (fexp10Ref x) = false ∧ signBit (fexp10Ref x) = false := by
  by_cases hfar : isFinite x = false ∨ 400 * 2 ^ unitBits ≤ unitsOf (magBits x)
  · rw [fexp10Ref_of_far hn hfar]
    cases signBit x <;> decide
  obtain ⟨hf, hnear⟩ := not_or.1 hfar
  rw [Bool.not_eq_false] at hf
  rw [not_le] at hnear
  by_cases hz : fracOf x = 0
  · exact fexp10Ref_of_integer hf hnear hz ▸ packBits_false_range (roundUnits_le_infMag _ _)
  cases h : ladder.findSome? (exp10At (floorOf x) (fracOf x)) with
  | none =>
    exact fexp10Ref_of_unsettled hf hnear hz h ▸ packBits_false_range (Nat.le_of_lt_succ (Nat.mod_lt _ (Nat.succ_pos _)))
  | some m =>
    obtain ⟨P, -, hP⟩ := List.exists_of_findSome?_eq_some h
    exact fexp10Ref_of_settled hf hnear hz h ▸ packBits_false_range (exp10At_le_infMag hP)

theorem exp10Int_zero : exp10Int 0 = oneMag := roundUnits_of_unitsOf_eq (by decide) (unitsOf_oneMag.trans (by simp))

theorem fexp10Ref_of_isZero (h : isZero x = true) : fexp10Ref x = one := by
  have hv : valueOf x = 0 := valueOf_eq_zero_iff.2 h
  have hnear : unitsOf (magBits x) < 400 * 2 ^ unitBits := by
    rw [isZero_iff.1 h, unitsOf_zero]
    exact Nat.mul_pos (by decide) (Nat.two_pow_pos _)
  have hfrac : fracOf x = 0 := by rw [fracOf, hv, Int.zero_emod, Int.toNat_zero]
  rw [fexp10Ref_of_integer (isFinite_of_isZero h) hnear hfrac, floorOf, hv, Int.zero_ediv, exp10Int_zero]
  decide

end

/-- Settles O47: each law is a branch of the definitions, and every other result is a rounding, or a free value cut to the range. -/
theorem numRefIsLawful : Obligations.NumRefIsLawful where
  sin_nonfinite _ := fsinRef_of_not_isFinite
  sin_zero _ := fsinRef_of_isZero
  sin_bound _ := magBits_fsinRef_le
  cos_nonfinite _ := fcosRef_of_not_isFinite
  cos_zero _ h := (fcosRef_of_isZero h).trans (by decide)
  cos_bound _ := magBits_fcosRef_le
  exp10_nan _ := fexp10Ref_of_isNaN
  exp10_posInf := fexp10Ref_of_far (x := posInf) (by decide) (.inl (by decide))
  exp10_negInf := fexp10Ref_of_far (x := fneg posInf) (by decide) (.inl (by decide))
  exp10_zero _ := fexp10Ref_of_isZero
  exp10_range _ := fexp10Ref_range

end Sys2Proof.Machine
end

section
/-! Two power series with a parameter that moves along the series: what is left of such a series after its first term is the same series at
the next parameter. So the sums of Machine/NumRef.lean, which move the same parameter, are compared with it one term at a time. -/

namespace Sys2Proof.Machine

/-! ### Reciprocals of an arithmetic progression: arctangent and the inverse hyperbolic tangent -/

/-- `1/j + y/(j+2) + y^2/(j+4) + …`. -/
noncomputable def recipSeries (y : ℝ) (j : Nat) : ℝ := ∑' i : Nat, y ^ i / (j + 2 * i : Nat)

section
variable {y : ℝ} {j : Nat}

theorem norm_recipSeries_term_le (hj : 1 ≤ j) (i : Nat) : ‖y ^ i / (j + 2 * i : Nat)‖ ≤ |y| ^ i := by
  rw [norm_div, norm_pow, Real.norm_eq_abs, Real.norm_natCast]
  exact div_le_self (by positivity) (by exact_mod_cast (by omega : 1 ≤ j + 2 * i))

theorem summable_recipSeries (hy : |y| < 1) (hj : 1 ≤ j) : Summable fun i : Nat => y ^ i / (j + 2 * i : Nat) :=
  .of_norm_bounded (summable_geometric_of_lt_one (abs_nonneg y) hy) (norm_recipSeries_term_le hj)

theorem recipSeries_succ (hy : |y| < 1) (hj : 1 ≤ j) : recipSeries y j = 1 / j + y * recipSeries y (j + 2) := by
  rw [recipSeries, (summable_recipSeries hy hj).tsum_eq_zero_add, recipSeries, ← tsum_mul_left]
  refine congrArg₂ (· + ·) (by simp) (tsum_congr fun i => ?_)
  rw [pow_succ', mul_div_assoc, show j + 2 * (i + 1) = j + 2 + 2 * i by ring]

theorem abs_recipSeries_le (hy : |y| ≤ 1 / 2) (hj : 1 ≤ j) : |recipSeries y j| ≤ 2 := by
  have hgeom := hasSum_geometric_of_lt_one (abs_nonneg y) (by linarith)
  calc |recipSeries y j| ≤ (1 - |y|)⁻¹ := tsum_of_norm_bounded hgeom (norm_recipSeries_term_le hj)
    _ ≤ (1 / 2)⁻¹ := inv_anti₀ (by norm_num) (by linarith)
    _ = 2 := by norm_num

theorem recipSeries_nonneg (hy : 0 ≤ y) : 0 ≤ recipSeries y j := tsum_nonneg fun i => by positivity

end

theorem mul_recipSeries_eq_arctan {x : ℝ} (hx : |x| < 1) : x * recipSeries (-x ^ 2) 1 = Real.arctan x := by
  rw [← (Real.hasSum_arctan hx).tsum_eq, recipSeries, ← tsum_mul_left]
  refine tsum_congr fun i => ?_
  rw [neg_pow, ← pow_mul, pow_succ', Nat.add_comm 1]
  ring

theorem two_mul_recipSeries_eq_log {x : ℝ} (hx : |x| < 1) :
    2 * (x * recipSeries (x ^ 2) 1) = Real.log (1 + x) - Real.log (1 - x) := by
  rw [← (Real.hasSum_log_sub_log_of_abs_lt_one hx).tsum_eq, recipSeries, ← tsum_mul_left, ← tsum_mul_left]
  refine tsum_congr fun i => ?_
  rw [← pow_mul, pow_succ', Nat.add_comm 1]
  push_cast
  ring

/-! ### Reciprocals of a rising product: exponential, sine and cosine -/

/-- `1 + z/k + z^2/(k(k+1)) + …`. -/
noncomputable def riseSeries {𝕜 : Type} [RCLike 𝕜] (z : 𝕜) (k : Nat) : 𝕜 := ∑' n : Nat, z ^ n / (k.ascFactorial n : Nat)

section
variable {𝕜 : Type} [RCLike 𝕜] {z : 𝕜} {k : Nat}

theorem norm_riseSeries_term_le (hk : 1 ≤ k) (n : Nat) : ‖z ^ n / (k.ascFactorial n : Nat)‖ ≤ ‖z‖ ^ n / n.factorial := by
  rw [norm_div, norm_pow, RCLike.norm_natCast, ← Nat.one_ascFactorial]
  have hle : Nat.ascFactorial 1 n ≤ k.ascFactorial n := Nat.ascFactorial_le n hk
  have hpos : 0 < Nat.ascFactorial 1 n := Nat.one_ascFactorial n ▸ n.factorial_pos
  gcongr

theorem summable_riseSeries (hk : 1 ≤ k) : Summable fun n : Nat => z ^ n / ((k.ascFactorial n : Nat) : 𝕜) :=
  .of_norm_bounded (Real.summable_pow_div_factorial ‖z‖) (norm_riseSeries_term_le hk)

theorem norm_riseSeries_le (hk : 1 ≤ k) : ‖riseSeries z k‖ ≤ Real.exp ‖z‖ := by
  rw [Real.exp_eq_exp_ℝ]
  exact tsum_of_norm_bounded (NormedSpace.expSeries_div_hasSum_exp ‖z‖) (norm_riseSeries_term_le hk)

theorem ascFactorial_succ_left (k n : Nat) : k.ascFactorial (n + 1) = k * (k + 1).ascFactorial n := by
  rw [Nat.ascFactorial_succ, ← Nat.succ_ascFactorial]

theorem riseSeries_succ (hk : 1 ≤ k) : riseSeries z k = 1 + z / k * riseSeries z (k + 1) := by
  have hshift := (summable_riseSeries (z := z) hk).tsum_eq_zero_add
  have hmul := (summable_riseSeries (z := z) k.succ_pos).tsum_mul_left (z / k)
  rw [riseSeries, riseSeries, hshift, ← hmul]
  refine congrArg₂ (· + ·) (by simp) (tsum_congr fun n => ?_)
  rw [ascFactorial_succ_left, Nat.cast_mul, pow_succ', mul_div_mul_comm]

theorem riseSeries_one : riseSeries z 1 = NormedSpace.exp z := by
  rw [NormedSpace.exp_eq_tsum_div]
  simp only [riseSeries, Nat.one_ascFactorial]

end

/-! ### The real part on the imaginary axis -/

/-- `1 - r^2/(d(d+1)) + r^4/(d(d+1)(d+2)(d+3)) - …`. -/
noncomputable def trigSeries (r : ℝ) (d : Nat) : ℝ := (riseSeries (r * Complex.I) d).re

section
variable {r : ℝ} {d : Nat}

theorem trigSeries_succ (hd : 1 ≤ d) : trigSeries r d = 1 - r ^ 2 / (d * (d + 1)) * trigSeries r (d + 2) := by
  have hstep : riseSeries (r * Complex.I) d =
      1 + ((r / d : ℝ) : ℂ) * Complex.I - ((r ^ 2 / (d * (d + 1)) : ℝ) : ℂ) * riseSeries (r * Complex.I) (d + 2) := by
    have hd0 : (d : ℂ) ≠ 0 := Nat.cast_ne_zero.2 (by omega)
    have hd1 : (d + 1 : ℂ) ≠ 0 := Nat.cast_add_one_ne_zero d
    rw [riseSeries_succ hd, riseSeries_succ (by omega : 1 ≤ d + 1)]
    push_cast
    field_simp
    linear_combination (r ^ 2 * riseSeries (r * Complex.I) (d + 2) : ℂ) * Complex.I_sq
  rw [trigSeries, hstep, Complex.sub_re, Complex.add_re, Complex.re_ofReal_mul, Complex.re_ofReal_mul, Complex.one_re,
    Complex.I_re, mul_zero, add_zero, trigSeries]

theorem abs_trigSeries_le (hd : 1 ≤ d) : |trigSeries r d| ≤ Real.exp |r| := by
  refine (Complex.abs_re_le_norm _).trans ((norm_riseSeries_le hd).trans_eq ?_)
  simp

theorem trigSeries_one : trigSeries r 1 = Real.cos r := by
  rw [trigSeries, riseSeries_one, ← Complex.exp_eq_exp_ℂ, Complex.exp_ofReal_mul_I_re]

theorem mul_trigSeries_two : r * trigSeries r 2 = Real.sin r := by
  have h := riseSeries_succ (z := (r * Complex.I : ℂ)) le_rfl
  rw [riseSeries_one, ← Complex.exp_eq_exp_ℂ] at h
  have him := congrArg Complex.im h
  rw [Complex.exp_ofReal_mul_I_im] at him
  simpa [trigSeries] using him.symm

end

end Sys2Proof.Machine
end

section
/-! The constants of `NUM_REF` (spec 40_numerics.md R100): pi by Machin's formula and the logarithm of ten, each between two whole numbers.
A sum whose terms are rounded down is compared with the series it truncates, one term at a time. -/

namespace Sys2Proof.Machine

/-! ### Sums of terms rounded down -/

/-- One term: the quotient of a number rounded down, itself rounded down, is short by at most one. -/
theorem div_sub_floor_div {a : ℝ} (ha : 0 ≤ a) (j : Nat) :
    0 ≤ a / j - (⌊a⌋₊ / j : Nat) ∧ a / j - (⌊a⌋₊ / j : Nat) ≤ 1 := by
  rw [← Nat.floor_div_natCast]
  have hle := Nat.floor_le (div_nonneg ha (Nat.cast_nonneg j))
  have hlt := Nat.lt_floor_add_one (a / j)
  constructor <;> linarith

theorem abs_inv_natCast_le_half {k : Nat} (hk : 2 ≤ k) : |(k : ℝ)⁻¹| ≤ 1 / 2 := by
  rw [abs_of_nonneg (by positivity), one_div]
  exact inv_anti₀ two_pos (by exact_mod_cast hk)

/-- Numbers scaled down by `k` at each term leave out the same, counted from the next term. -/
theorem rest_succ (a : ℝ) (k n : Nat) : 2 * (a / k) / k ^ n = 2 * a / (k : ℝ) ^ (n + 1) := by
  rw [pow_succ', ← mul_div_assoc, div_div]

section
variable {k : Nat} (hk : 2 ≤ k)
include hk

/-- The shortfalls of an alternating sum cancel by halves; what the truncation leaves out is at most `2a/k^n`. -/
theorem atanTerms_error (n : Nat) {a : ℝ} (ha : 0 ≤ a) {j : Nat} (hj : 1 ≤ j) :
    -(n / 2 + 2 * a / k ^ n) ≤ a * recipSeries (-(k : ℝ)⁻¹) j - atanTerms k n ⌊a⌋₊ j ∧
    a * recipSeries (-(k : ℝ)⁻¹) j - atanTerms k n ⌊a⌋₊ j ≤ (n + 1) / 2 + 2 * a / k ^ n := by
  have hy : |-(k : ℝ)⁻¹| ≤ 1 / 2 := by rw [abs_neg]; exact abs_inv_natCast_le_half hk
  induction n generalizing a j with
  | zero =>
    obtain ⟨hlo, hhi⟩ := abs_le.1 (abs_recipSeries_le hy hj)
    simp only [atanTerms, Nat.cast_zero, Int.cast_zero, pow_zero]
    constructor <;> nlinarith
  | succ n ih =>
    obtain ⟨hlo, hhi⟩ := ih (div_nonneg ha (Nat.cast_nonneg k)) (by omega : 1 ≤ j + 2)
    obtain ⟨hterm0, hterm1⟩ := div_sub_floor_div ha j
    have hseries : a * recipSeries (-(k : ℝ)⁻¹) j = a / j - a / k * recipSeries (-(k : ℝ)⁻¹) (j + 2) := by
      rw [recipSeries_succ (by linarith) hj]
      ring
    rw [Nat.floor_div_natCast, rest_succ] at hlo hhi
    rw [hseries, atanTerms, Int.cast_sub, Int.cast_natCast, Nat.cast_succ]
    constructor <;> linarith

/-- The shortfalls of a sum of one sign add up. -/
theorem atanhTerms_error (n : Nat) {a : ℝ} (ha : 0 ≤ a) {j : Nat} (hj : 1 ≤ j) :
    0 ≤ a * recipSeries (k : ℝ)⁻¹ j - atanhTerms k n ⌊a⌋₊ j ∧
    a * recipSeries (k : ℝ)⁻¹ j - atanhTerms k n ⌊a⌋₊ j ≤ n + 2 * a / k ^ n := by
  have hy := abs_inv_natCast_le_half hk
  induction n generalizing a j with
  | zero =>
    have hlo : 0 ≤ recipSeries (k : ℝ)⁻¹ j := recipSeries_nonneg (by positivity)
    have hhi := le_of_abs_le (abs_recipSeries_le hy hj)
    simp only [atanhTerms, Nat.cast_zero, pow_zero]
    constructor <;> nlinarith
  | succ n ih =>
    obtain ⟨hlo, hhi⟩ := ih (div_nonneg ha (Nat.cast_nonneg k)) (by omega : 1 ≤ j + 2)
    obtain ⟨hterm0, hterm1⟩ := div_sub_floor_div ha j
    have hseries : a * recipSeries (k : ℝ)⁻¹ j = a / j + a / k * recipSeries (k : ℝ)⁻¹ (j + 2) := by
      rw [recipSeries_succ (by linarith) hj]
      ring
    rw [Nat.floor_div_natCast] at hlo hhi
    rw [rest_succ] at hhi
    rw [hseries, atanhTerms, Nat.cast_add, Nat.cast_succ]
    constructor <;> linarith

end

/-- What the truncation leaves out of `2^Q / k` is less than one when the terms fall by `2^c` often enough. -/
theorem rest_le_one {c k m Q n : Nat} (hk : 1 ≤ k) (hm : 2 ^ c ≤ m) (hn : Q + 1 ≤ c * n) :
    2 * ((2 ^ Q : Nat) / k : ℝ) / m ^ n ≤ 1 := by
  have hpow : 2 ^ (Q + 1) ≤ m ^ n :=
    calc 2 ^ (Q + 1) ≤ 2 ^ (c * n) := Nat.pow_le_pow_right two_pos hn
      _ = (2 ^ c) ^ n := pow_mul ..
      _ ≤ m ^ n := Nat.pow_le_pow_left hm n
  have hle : ((2 ^ Q : Nat) / k : ℝ) ≤ (2 ^ Q : Nat) := div_le_self (Nat.cast_nonneg _) (by exact_mod_cast hk)
  have hpos : 0 < m ^ n := (Nat.two_pow_pos _).trans_le hpow
  rw [div_le_one (by exact_mod_cast hpos)]
  calc 2 * ((2 ^ Q : Nat) / k : ℝ) ≤ 2 * (2 ^ Q : Nat) := by gcongr
    _ = (2 ^ (Q + 1) : Nat) := by push_cast; ring
    _ ≤ m ^ n := by exact_mod_cast hpow

/-! ### Pi -/

theorem atanInv_error {Q k : Nat} (hk : 4 ≤ k) :
    |2 ^ Q * Real.arctan (k : ℝ)⁻¹ - atanInv Q k| ≤ (Q / 4 + 5 : Nat) := by
  have hsq : 2 ^ 4 ≤ k * k := (by decide : 2 ^ 4 ≤ 4 * 4).trans (Nat.mul_le_mul hk hk)
  have hx : |(k : ℝ)⁻¹| < 1 := (abs_inv_natCast_le_half (by omega)).trans_lt (by norm_num)
  have hrest : 2 * ((2 ^ Q : Nat) / k : ℝ) / (k * k : Nat) ^ (Q / 4 + 4) ≤ 1 := rest_le_one (by omega) hsq (by omega)
  have ha : (0 : ℝ) ≤ (2 ^ Q : Nat) / k := by positivity
  obtain ⟨hlo, hhi⟩ := atanTerms_error (k := k * k) (by omega) (Q / 4 + 4) ha le_rfl
  have harctan : 2 ^ Q * Real.arctan (k : ℝ)⁻¹ = (2 ^ Q : Nat) / k * recipSeries (-((k * k : Nat) : ℝ)⁻¹) 1 := by
    rw [← mul_recipSeries_eq_arctan hx, Nat.cast_mul, mul_inv, ← sq, Nat.cast_pow, Nat.cast_ofNat]
    ring
  rw [Nat.floor_div_eq_div] at hlo hhi
  have hn : (0 : ℝ) ≤ (Q / 4 : Nat) := Nat.cast_nonneg _
  rw [harctan, atanInv, abs_le]
  push_cast at *
  constructor <;> linarith

theorem piMid_error (Q : Nat) : |2 ^ Q * Real.pi - piMid Q| ≤ piErr Q := by
  have h5 := abs_le.1 (atanInv_error (Q := Q) (k := 5) (by decide))
  have h239 := abs_le.1 (atanInv_error (Q := Q) (k := 239) (by decide))
  have hmachin := Real.four_mul_arctan_inv_5_sub_arctan_inv_239
  rw [abs_le, show Real.pi = 16 * Real.arctan (5 : Nat)⁻¹ - 4 * Real.arctan (239 : Nat)⁻¹ by push_cast; linarith, piMid, piErr]
  push_cast at *
  obtain ⟨h5l, h5h⟩ := h5
  obtain ⟨h239l, h239h⟩ := h239
  constructor <;> linarith

/-- A number cut off at zero, as a real number. -/
theorem natCast_toNat_eq_max (i : Int) : (i.toNat : ℝ) = max (i : ℝ) 0 := by
  rw [← Int.cast_natCast, Int.toNat_eq_max, Int.cast_max, Int.cast_zero]

theorem piLo_le (Q : Nat) : piLo Q ≤ 2 ^ Q * Real.pi := by
  have h := (abs_le.1 (piMid_error Q)).1
  rw [piLo, natCast_toNat_eq_max, Int.cast_sub, Int.cast_natCast]
  exact max_le (by linarith) (by positivity)

theorem le_piHi (Q : Nat) : 2 ^ Q * Real.pi ≤ piHi Q := by
  have h := (abs_le.1 (piMid_error Q)).2
  rw [piHi, natCast_toNat_eq_max, Int.cast_add, Int.cast_natCast]
  exact le_max_of_le_left (by linarith)

theorem four_mul_piErr_le {Q : Nat} (hQ : 32 ≤ Q) : 4 * piErr Q ≤ 2 ^ Q := by
  have hpow : 2 ^ Q = 2 ^ 32 * 2 ^ (Q - 32) := (pow_mul_pow_sub 2 hQ).symm
  have hlin : Q - 32 < 2 ^ (Q - 32) := Nat.lt_two_pow_self
  unfold piErr
  omega

/-- At 32 bits and more the enclosure of pi is narrow enough for half of it to be below 2. -/
theorem piHi_le {Q : Nat} (hQ : 32 ≤ Q) : (piHi Q : ℝ) ≤ 2 ^ Q * 4 := by
  have h := (abs_le.1 (piMid_error Q)).1
  have herr : 4 * (piErr Q : ℝ) ≤ 2 ^ Q := by exact_mod_cast four_mul_piErr_le hQ
  have hpi : 2 ^ Q * Real.pi ≤ 2 ^ Q * 3.15 := mul_le_mul_of_nonneg_left Real.pi_lt_d2.le (by positivity)
  rw [piHi, natCast_toNat_eq_max, Int.cast_add, Int.cast_natCast]
  exact max_le (by linarith) (by positivity)

/-! ### The logarithm of ten -/

theorem atanhInv_error {Q k : Nat} (hk : 3 ≤ k) :
    0 ≤ 2 ^ Q * (Real.log (1 + (k : ℝ)⁻¹) - Real.log (1 - (k : ℝ)⁻¹)) - 2 * atanhInv Q k ∧
    2 ^ Q * (Real.log (1 + (k : ℝ)⁻¹) - Real.log (1 - (k : ℝ)⁻¹)) - 2 * atanhInv Q k ≤ 2 * (Q / 3 + 5 : Nat) := by
  have hsq : 2 ^ 3 ≤ k * k := (by decide : 2 ^ 3 ≤ 3 * 3).trans (Nat.mul_le_mul hk hk)
  have hx : |(k : ℝ)⁻¹| < 1 := (abs_inv_natCast_le_half (by omega)).trans_lt (by norm_num)
  have hrest : 2 * ((2 ^ Q : Nat) / k : ℝ) / (k * k : Nat) ^ (Q / 3 + 4) ≤ 1 := rest_le_one (by omega) hsq (by omega)
  have ha : (0 : ℝ) ≤ (2 ^ Q : Nat) / k := by positivity
  obtain ⟨hlo, hhi⟩ := atanhTerms_error (k := k * k) (by omega) (Q / 3 + 4) ha le_rfl
  have hlog : 2 ^ Q * (Real.log (1 + (k : ℝ)⁻¹) - Real.log (1 - (k : ℝ)⁻¹)) =
      2 * ((2 ^ Q : Nat) / k * recipSeries ((k * k : Nat) : ℝ)⁻¹ 1) := by
    rw [← two_mul_recipSeries_eq_log hx, Nat.cast_mul, mul_inv, ← sq, Nat.cast_pow, Nat.cast_ofNat]
    ring
  rw [Nat.floor_div_eq_div] at hlo hhi
  rw [hlog, atanhInv]
  push_cast at *
  constructor <;> linarith

/-- `ln 10 = 3 ln 2 + ln (5/4)`. -/
theorem log_ten_eq : Real.log 10 =
    3 * (Real.log (1 + 3⁻¹) - Real.log (1 - 3⁻¹)) + (Real.log (1 + 9⁻¹) - Real.log (1 - 9⁻¹)) := by
  rw [← Real.log_div (by norm_num) (by norm_num), ← Real.log_div (by norm_num) (by norm_num), ← Nat.cast_ofNat (n := 3),
    ← Real.log_pow, ← Real.log_mul (by norm_num) (by norm_num)]
  norm_num

theorem ln10_bounds (Q : Nat) : (ln10Lo Q : ℝ) ≤ 2 ^ Q * Real.log 10 ∧ 2 ^ Q * Real.log 10 ≤ ln10Hi Q := by
  obtain ⟨h3l, h3h⟩ := atanhInv_error (Q := Q) (k := 3) le_rfl
  obtain ⟨h9l, h9h⟩ := atanhInv_error (Q := Q) (k := 9) (by decide)
  rw [log_ten_eq, ln10Hi, ln10Lo]
  push_cast at *
  constructor <;> linarith

end Sys2Proof.Machine
end

section
/-! Sine and cosine of `NUM_REF` (spec 40_numerics.md R100): an enclosure whose ends round alike settles the rounding of all it holds,
and the enclosures of Machine/NumRef.lean hold the exact values. -/

namespace Sys2Proof.Machine

/-! ### From an enclosure to the nearest pattern -/

section
variable {v : ℝ} {m : Nat}

theorem settled_sound {lo hi : Int} {den : Nat} (h : settled lo hi den = some m) (hden : 0 < den)
    (hlo : lo / den ≤ v) (hhi : v ≤ hi / den) : 0 < v ∧ RoundsTo v m := by
  obtain ⟨hpos, hml, hmh⟩ := settled_eq_some h
  have hden' : (0 : ℝ) < den := Nat.cast_pos.2 hden
  have hlo0 : (0 : ℝ) < lo / den := div_pos (Int.cast_pos.2 hpos) hden'
  have hlo' : (lo.toNat / den : ℝ) = lo / den := by
    rw [natCast_toNat_eq_max, max_eq_left (Int.cast_nonneg hpos.le)]
  have hhi' : (hi / den : ℝ) ≤ hi.toNat / den := by
    rw [natCast_toNat_eq_max]
    gcongr
    exact le_max_left _ _
  exact ⟨hlo0.trans_le hlo,
    .between (hml ▸ roundUnits_roundsTo _ hden) (hmh ▸ roundUnits_roundsTo _ hden) (hlo'.trans_le hlo) (hhi.trans hhi')⟩

/-- The rounding of a magnitude, under a sign, is nearest to the signed number. -/
theorem RoundsTo.nearestReal (h : RoundsTo (v * 2 ^ unitBits) m) (hm : m < infMag) (hv : 0 ≤ v) (s : Bool) :
    NearestReal (if s then -v else v) (packBits s m) := by
  have hU : (0 : ℝ) < 2 ^ unitBits := pow_pos two_pos _
  have h63 := lt_two_pow_of_le_infMag hm.le
  refine ⟨by rwa [isFinite_iff, magBits_packBits h63], fun z _ => ?_⟩
  -- compared in units, with the sign moved to the values
  have hscale : ∀ w : F64, |(if s then -v else v) - (valueOf w : ℝ) / 2 ^ unitBits| =
      |v * 2 ^ unitBits - (if s then -1 else 1) * (valueOf w : ℝ)| / 2 ^ unitBits := fun w => by
    rw [eq_div_iff hU.ne', ← abs_of_pos hU, ← abs_mul, abs_of_pos hU, sub_mul, div_mul_cancel₀ _ hU.ne']
    cases s
    · simp
    · rw [← abs_neg]
      congr 1
      simp
      ring
  have hself : (if s then -1 else 1) * (valueOf (packBits s m) : ℝ) = unitsOf m := by
    rw [valueOf, signBit_packBits h63, magBits_packBits h63]
    cases s <;> simp
  have hother : |v * 2 ^ unitBits - unitsOf (magBits z)| ≤ |v * 2 ^ unitBits - (if s then -1 else 1) * (valueOf z : ℝ)| := by
    have habs := abs_abs_sub_abs_le_abs_sub (v * 2 ^ unitBits) ((if s then -1 else 1) * (valueOf z : ℝ))
    rw [abs_of_nonneg (mul_nonneg hv hU.le), abs_mul, abs_valueOf] at habs
    cases s <;> simpa using habs
  rw [hscale, hscale, hself]
  exact div_le_div_of_nonneg_right ((h.dist_le hm _).1.trans hother) hU.le

end

/-! ### The alternating sums of sine and cosine -/

theorem exp_two_le : Real.exp 2 ≤ 8 := by
  rw [show (2 : ℝ) = 1 + 1 by norm_num, Real.exp_add]
  nlinarith [Real.exp_one_lt_d9, Real.exp_pos 1]

section
variable {P lo : Nat} (hlo : (lo : ℝ) / 2 ^ P ≤ 2)
include hlo

/-- What the truncation leaves out after `n` terms goes over to the term after the first. -/
theorem trigRest_le {a : ℝ} (ha : 0 ≤ a) {d : Nat} (hd : 1 ≤ d) (n : Nat) :
    8 * (a * ((lo / 2 ^ P) ^ 2 / (d * (d + 1)))) * 4 ^ n / (d + 2).ascFactorial (2 * n) ≤
      8 * a * 4 ^ (n + 1) / d.ascFactorial (2 * (n + 1)) := by
  have hfac : d.ascFactorial (2 * (n + 1)) = d * ((d + 1) * (d + 2).ascFactorial (2 * n)) := by
    rw [show 2 * (n + 1) = 2 * n + 1 + 1 by ring, ascFactorial_succ_left, ascFactorial_succ_left]
  have hasc : 0 < (d + 2).ascFactorial (2 * n) := Nat.ascFactorial_pos _ _
  have hr : (lo / 2 ^ P : ℝ) ^ 2 ≤ 4 := by nlinarith [show (0 : ℝ) ≤ lo / 2 ^ P by positivity]
  have hd0 : (0 : ℝ) < d := Nat.cast_pos.2 hd
  rw [hfac]
  push_cast
  calc 8 * (a * ((lo / 2 ^ P : ℝ) ^ 2 / (d * (d + 1)))) * 4 ^ n / (d + 2).ascFactorial (2 * n)
      ≤ 8 * (a * (4 / (d * (d + 1)))) * 4 ^ n / (d + 2).ascFactorial (2 * n) := by gcongr
    _ = 8 * a * 4 ^ (n + 1) / (d * ((d + 1) * (d + 2).ascFactorial (2 * n))) := by
      field_simp
      ring

/-- A term `t` short of the exact `a` by at most 2 is followed by a term short by at most 2. -/
theorem trigTerm_next {a : ℝ} {t d : Nat} (hta : t ≤ a) (hat : a ≤ t + 2) (hd : 1 ≤ d) (hshort : a = t ∨ 3 ≤ d) :
    ((t * (lo * lo) / (2 ^ (2 * P) * (d * (d + 1))) : Nat) : ℝ) ≤ a * ((lo / 2 ^ P) ^ 2 / (d * (d + 1))) ∧
    a * ((lo / 2 ^ P) ^ 2 / (d * (d + 1))) ≤ (t * (lo * lo) / (2 ^ (2 * P) * (d * (d + 1))) : Nat) + 2 := by
  have hd0 : (0 : ℝ) < d := Nat.cast_pos.2 hd
  set q : ℝ := (lo / 2 ^ P) ^ 2 / (d * (d + 1)) with hq
  have hq0 : 0 ≤ q := by positivity
  obtain ⟨h0, h1⟩ := div_sub_floor_div (a := (t * (lo * lo) : Nat)) (Nat.cast_nonneg _) (2 ^ (2 * P) * (d * (d + 1)))
  have hexact : ((t * (lo * lo) : Nat) : ℝ) / (2 ^ (2 * P) * (d * (d + 1)) : Nat) = t * q := by
    rw [hq, pow_mul']
    push_cast
    field_simp
  rw [Nat.floor_natCast, hexact] at h0 h1
  have hcarry : (a - t) * q ≤ 1 := by
    rcases hshort with rfl | h3
    · simp
    · have hr : (lo / 2 ^ P : ℝ) ^ 2 ≤ 4 := by nlinarith [show (0 : ℝ) ≤ lo / 2 ^ P by positivity]
      have h3' : (3 : ℝ) ≤ d := by exact_mod_cast h3
      have hq3 : q ≤ 1 / 3 := by
        rw [hq, div_le_iff₀ (by positivity)]
        nlinarith
      nlinarith
  have hcarry0 : 0 ≤ (a - t) * q := mul_nonneg (by linarith) hq0
  constructor <;> linarith

theorem trigTerms_error (n : Nat) {a : ℝ} {t d : Nat} (hta : t ≤ a) (hat : a ≤ t + 2) (hd : 1 ≤ d) (hshort : a = t ∨ 3 ≤ d) :
    |a * trigSeries (lo / 2 ^ P) d - trigTerms P (lo * lo) n t d| ≤ 2 * n + 8 * a * 4 ^ n / d.ascFactorial (2 * n) := by
  induction n generalizing a t d with
  | zero =>
    have ha : 0 ≤ a := (Nat.cast_nonneg t).trans hta
    have hseries : |trigSeries (lo / 2 ^ P) d| ≤ 8 := by
      refine (abs_trigSeries_le hd).trans ((Real.exp_le_exp.2 ?_).trans exp_two_le)
      rwa [abs_of_nonneg (by positivity)]
    rw [trigTerms, Int.cast_zero, sub_zero, abs_mul, abs_of_nonneg ha]
    simp only [Nat.cast_zero, mul_zero, zero_add, pow_zero, mul_one, Nat.ascFactorial_zero, Nat.cast_one, div_one]
    nlinarith
  | succ n ih =>
    have ha : 0 ≤ a := (Nat.cast_nonneg t).trans hta
    obtain ⟨hta', hat'⟩ := trigTerm_next hlo hta hat hd hshort
    have hrest := ih hta' hat' (by omega : 1 ≤ d + 2) (.inr (by omega))
    have hsplit : a * trigSeries (lo / 2 ^ P) d = a - a * ((lo / 2 ^ P) ^ 2 / (d * (d + 1))) * trigSeries (lo / 2 ^ P) (d + 2) := by
      rw [trigSeries_succ hd]
      ring
    have hbound := trigRest_le hlo ha hd n
    rw [hsplit, trigTerms, Int.cast_sub, Int.cast_natCast, Nat.cast_succ, abs_le]
    obtain ⟨hl, hh⟩ := abs_le.1 hrest
    constructor <;> linarith

end

/-- The sum `trigAt` computes in quarter turn `q`, and the function it approximates. -/
def trigSum (P lo q : Nat) : Int :=
  if q % 2 = 0 then trigTerms P (lo * lo) (trigCount P) lo 2 else trigTerms P (lo * lo) (trigCount P) (2 ^ P) 1

noncomputable def trigOf (q : Nat) (r : ℝ) : ℝ := if q % 2 = 0 then Real.sin r else Real.cos r

/-- At each precision of the ladder the series is long enough. -/
theorem trigRest_ladder {P : Nat} (hP : P ∈ ladder) : 2 ^ P * 8 * 4 ^ trigCount P ≤ (2 * trigCount P).factorial := by
  have h : ∀ P ∈ ladder, 2 ^ P * 8 * 4 ^ trigCount P ≤ (2 * trigCount P).factorial := by decide +kernel
  exact h P hP

theorem trigRest_le_two {P : Nat} (hP : P ∈ ladder) {a : ℝ} (ha : a ≤ 2 * 2 ^ P) {d : Nat} (hd : 1 ≤ d) :
    8 * a * 4 ^ trigCount P / d.ascFactorial (2 * trigCount P) ≤ 2 := by
  have hfac : (2 * trigCount P).factorial ≤ d.ascFactorial (2 * trigCount P) :=
    Nat.one_ascFactorial (2 * trigCount P) ▸ Nat.ascFactorial_le _ hd
  have hpos : 0 < d.ascFactorial (2 * trigCount P) := (Nat.factorial_pos _).trans_le hfac
  have hladder : (2 ^ P * 8 * 4 ^ trigCount P : ℝ) ≤ d.ascFactorial (2 * trigCount P) := by
    exact_mod_cast (trigRest_ladder hP).trans hfac
  rw [div_le_iff₀ (Nat.cast_pos.2 hpos)]
  calc 8 * a * 4 ^ trigCount P ≤ 8 * (2 * 2 ^ P) * 4 ^ trigCount P := by gcongr
    _ = 2 * (2 ^ P * 8 * 4 ^ trigCount P) := by ring
    _ ≤ 2 * d.ascFactorial (2 * trigCount P) := by gcongr

theorem trigSum_error {P lo : Nat} (hP : P ∈ ladder) (hlo : (lo : ℝ) / 2 ^ P ≤ 2) (q : Nat) :
    |2 ^ P * trigOf q (lo / 2 ^ P) - trigSum P lo q| ≤ 2 * trigCount P + 2 := by
  have hpos : (0 : ℝ) < 2 ^ P := pow_pos two_pos _
  unfold trigOf trigSum
  split
  · have hsin : 2 ^ P * Real.sin (lo / 2 ^ P) = lo * trigSeries (lo / 2 ^ P) 2 := by
      rw [← mul_trigSeries_two, ← mul_assoc, mul_div_cancel₀ _ hpos.ne']
    have herr := trigTerms_error hlo (trigCount P) (a := lo) (t := lo) (d := 2) le_rfl (by linarith) (by decide) (.inl rfl)
    rw [hsin]
    linarith [trigRest_le_two hP ((div_le_iff₀ hpos).1 hlo) (by decide : 1 ≤ 2)]
  · have herr := trigTerms_error hlo (trigCount P) (a := (2 ^ P : Nat)) (t := 2 ^ P) (d := 1) le_rfl (by linarith) le_rfl (.inl rfl)
    rw [← trigSeries_one]
    push_cast at herr
    linarith [trigRest_le_two hP (by linarith : (2 ^ P : ℝ) ≤ 2 * 2 ^ P) (le_refl 1)]

/-! ### The reduction by quarter turns -/

/-- One of the two quotients of `quarterTurns`, for the approximation `T` of `pi * 2^Q`. -/
def turnRest (P M Q n T : Nat) : Nat := (M * 2 ^ (Q + 1) - n * T * 2 ^ unitBits) * 2 ^ P / 2 ^ (unitBits + Q + 1)

theorem turnRest_bounds {P M Q n T : Nat} (h : n * T * 2 ^ unitBits ≤ M * 2 ^ (Q + 1)) :
    (turnRest P M Q n T : ℝ) ≤ (M / 2 ^ unitBits - n * (T / 2 ^ (Q + 1))) * 2 ^ P ∧
    (M / 2 ^ unitBits - n * (T / 2 ^ (Q + 1)) : ℝ) * 2 ^ P ≤ turnRest P M Q n T + 1 := by
  have hU : (2 : ℝ) ^ unitBits ≠ 0 := pow_ne_zero _ two_ne_zero
  have hW : (2 : ℝ) ^ (Q + 1) ≠ 0 := pow_ne_zero _ two_ne_zero
  obtain ⟨h0, h1⟩ := div_sub_floor_div (Nat.cast_nonneg ((M * 2 ^ (Q + 1) - n * T * 2 ^ unitBits) * 2 ^ P))
    (2 ^ (unitBits + Q + 1))
  have hexact : (((M * 2 ^ (Q + 1) - n * T * 2 ^ unitBits) * 2 ^ P : Nat) : ℝ) / (2 ^ (unitBits + Q + 1) : Nat) =
      (M / 2 ^ unitBits - n * (T / 2 ^ (Q + 1))) * 2 ^ P := by
    rw [Nat.cast_mul, Nat.cast_sub h, Nat.add_assoc, pow_add 2 unitBits]
    push_cast
    generalize (2 : ℝ) ^ (Q + 1) = W at hW ⊢
    generalize (2 : ℝ) ^ unitBits = U at hU ⊢
    field_simp
  rw [Nat.floor_natCast, hexact, ← turnRest] at h0 h1
  constructor <;> linarith

/-- The enclosure of a quarter turn. -/
theorem half_pi_bounds (Q : Nat) :
    (piLo Q : ℝ) / 2 ^ (Q + 1) ≤ Real.pi / 2 ∧ Real.pi / 2 ≤ (piHi Q : ℝ) / 2 ^ (Q + 1) := by
  have hW : (0 : ℝ) < 2 ^ (Q + 1) := pow_pos two_pos _
  rw [div_le_div_iff₀ hW two_pos, div_le_div_iff₀ two_pos hW, pow_succ]
  constructor
  · linarith [piLo_le Q]
  · linarith [le_piHi Q]

/-- The quarter turns of `quarterTurns` fit, with less than one left, which is less than 2. -/
theorem turns_fit {M Q n : Nat} (hQ : 32 ≤ Q) (hn : n = M * 2 ^ (Q + 1) / (piHi Q * 2 ^ unitBits)) :
    n * piHi Q * 2 ^ unitBits ≤ M * 2 ^ (Q + 1) ∧ (M / 2 ^ unitBits - n * (piHi Q / 2 ^ (Q + 1)) : ℝ) ≤ 2 := by
  have hW : (0 : ℝ) < 2 ^ (Q + 1) := pow_pos two_pos _
  have hpi : 0 < piHi Q := by
    have : (0 : ℝ) < piHi Q := (mul_pos (pow_pos two_pos Q) Real.pi_pos).trans_le (le_piHi Q)
    exact_mod_cast this
  have hnext : M * 2 ^ (Q + 1) < (n + 1) * (piHi Q * 2 ^ unitBits) := by
    rw [hn, mul_comm (_ + 1)]
    exact Nat.lt_mul_div_succ _ (Nat.mul_pos hpi (Nat.two_pow_pos _))
  have hnext' : (M / 2 ^ unitBits : ℝ) ≤ (n + 1) * (piHi Q / 2 ^ (Q + 1)) := by
    have hcast : (M * 2 ^ (Q + 1) : ℝ) ≤ (n + 1) * (piHi Q * 2 ^ unitBits) := by exact_mod_cast hnext.le
    rw [div_le_iff₀ (pow_pos two_pos _), ← mul_div_assoc, div_mul_eq_mul_div, le_div_iff₀ hW]
    linarith
  have htwo : (piHi Q : ℝ) / 2 ^ (Q + 1) ≤ 2 := by
    rw [div_le_iff₀ hW, pow_succ]
    linarith [piHi_le hQ]
  constructor
  · rw [hn, mul_assoc]
    exact Nat.div_mul_le_self _ _
  · linarith

/-- The rest of `M` units after the quarter turns taken off lies between the two numbers of `quarterTurns`. -/
theorem quarterTurns_spec {P M n lo hi : Nat} (h : quarterTurns P M = (n, lo, hi)) :
    (lo : ℝ) / 2 ^ P ≤ 2 ∧ lo ≤ (M / 2 ^ unitBits - n * (Real.pi / 2)) * 2 ^ P ∧
    (M / 2 ^ unitBits - n * (Real.pi / 2)) * 2 ^ P ≤ hi := by
  obtain ⟨Q, hQ, hn, rfl, rfl⟩ : ∃ Q, 32 ≤ Q ∧ n = M * 2 ^ (Q + 1) / (piHi Q * 2 ^ unitBits) ∧
      lo = turnRest P M Q n (piHi Q) ∧ hi = turnRest P M Q n (piLo Q) + 1 := by
    obtain ⟨rfl, rfl, rfl⟩ : _ ∧ _ ∧ _ := by simpa only [quarterTurns, Prod.mk.injEq] using h
    exact ⟨_, by omega, rfl, rfl, rfl⟩
  have hP : (0 : ℝ) < 2 ^ P := pow_pos two_pos _
  obtain ⟨hlow, hhigh⟩ := half_pi_bounds Q
  obtain ⟨hfit, hrest⟩ := turns_fit hQ hn
  have hlohi : piLo Q ≤ piHi Q := by exact_mod_cast (piLo_le Q).trans (le_piHi Q)
  obtain ⟨hl, -⟩ := turnRest_bounds (P := P) hfit
  obtain ⟨-, hh⟩ := turnRest_bounds (P := P) ((Nat.mul_le_mul_right _ (Nat.mul_le_mul_left n hlohi)).trans hfit)
  have hmono : ∀ {S T : ℝ}, S ≤ T → (M / 2 ^ unitBits - n * T : ℝ) * 2 ^ P ≤ (M / 2 ^ unitBits - n * S) * 2 ^ P := fun hST =>
    mul_le_mul_of_nonneg_right (sub_le_sub_left (mul_le_mul_of_nonneg_left hST (Nat.cast_nonneg n)) _) hP.le
  refine ⟨(div_le_iff₀ hP).2 (hl.trans (mul_le_mul_of_nonneg_right hrest hP.le)), hl.trans (hmono hhigh), ?_⟩
  rw [Nat.cast_succ]
  exact (hmono hlow).trans hh

/-! ### `trigAt` -/

theorem trigAt_eq (M shift P : Nat) : trigAt M shift P =
    let (n, lo, hi) := quarterTurns P M
    let q := (n + shift) % 4
    let e : Nat := 2 * trigCount P + 2 + (hi - lo)
    (settled ((trigSum P lo q - e) * 2 ^ unitBits) ((trigSum P lo q + e) * 2 ^ unitBits) (2 ^ P)).map
      fun m => (decide (2 ≤ q), m) := by
  simp only [trigAt, trigSum, beq_iff_eq]

theorem trigAt_eq_some {M shift P m : Nat} {neg : Bool} (h : trigAt M shift P = some (neg, m)) :
    ∃ n lo hi, quarterTurns P M = (n, lo, hi) ∧ neg = decide (2 ≤ (n + shift) % 4) ∧
      settled ((trigSum P lo ((n + shift) % 4) - (2 * trigCount P + 2 + (hi - lo) : Nat)) * 2 ^ unitBits)
        ((trigSum P lo ((n + shift) % 4) + (2 * trigCount P + 2 + (hi - lo) : Nat)) * 2 ^ unitBits) (2 ^ P) = some m := by
  rw [trigAt_eq] at h
  generalize hq : quarterTurns P M = turns at h
  obtain ⟨n, lo, hi⟩ := turns
  obtain ⟨m', hm', heq⟩ := Option.map_eq_some_iff.1 h
  cases heq
  exact ⟨n, lo, hi, rfl, rfl, hm'⟩

/-- Adding quarter turns to an angle. -/
theorem sin_add_quarters (r : ℝ) (k : Nat) :
    Real.sin (r + k * (Real.pi / 2)) = if 2 ≤ k % 4 then -trigOf (k % 4) r else trigOf (k % 4) r := by
  have hturns : r + k * (Real.pi / 2) = r + (k % 4 : Nat) * (Real.pi / 2) + (k / 4 : Nat) * (2 * Real.pi) := by
    have hk : (k : ℝ) = (4 * (k / 4) + k % 4 : Nat) := by rw [Nat.div_add_mod]
    rw [hk]
    push_cast
    ring
  rw [hturns, Real.sin_add_nat_mul_two_pi]
  have hlt : k % 4 < 4 := Nat.mod_lt _ (by decide)
  generalize k % 4 = q at hlt
  interval_cases q
  · simp [trigOf]
  · simp [trigOf, Real.sin_add_pi_div_two]
  · rw [show r + (2 : Nat) * (Real.pi / 2) = r + Real.pi by push_cast; ring, Real.sin_add_pi]
    simp [trigOf]
  · rw [show r + (3 : Nat) * (Real.pi / 2) = r + Real.pi / 2 + Real.pi by push_cast; ring, Real.sin_add_pi, Real.sin_add_pi_div_two]
    simp [trigOf]

theorem abs_trigOf_sub_le (q : Nat) (x y : ℝ) : |trigOf q x - trigOf q y| ≤ |x - y| := by
  unfold trigOf
  split
  · exact Real.abs_sin_sub_sin_le x y
  · exact Real.abs_cos_sub_cos_le x y

/-- Between the two ends of the rest neither function moves by more than their distance. -/
theorem trigOf_move {P lo hi : Nat} {r : ℝ} (q : Nat) (hlo : lo ≤ r * 2 ^ P) (hhi : r * 2 ^ P ≤ hi) :
    |2 ^ P * trigOf q r - 2 ^ P * trigOf q (lo / 2 ^ P)| ≤ hi - lo := by
  have hpos : (0 : ℝ) < 2 ^ P := pow_pos two_pos _
  calc |2 ^ P * trigOf q r - 2 ^ P * trigOf q (lo / 2 ^ P)| = 2 ^ P * |trigOf q r - trigOf q (lo / 2 ^ P)| := by
        rw [← mul_sub, abs_mul, abs_of_pos hpos]
    _ ≤ 2 ^ P * |r - lo / 2 ^ P| := mul_le_mul_of_nonneg_left (abs_trigOf_sub_le q _ _) hpos.le
    _ = |r * 2 ^ P - lo| := by
        rw [← abs_of_pos hpos, ← abs_mul, abs_of_pos hpos, mul_sub, mul_div_cancel₀ _ hpos.ne', mul_comm]
    _ ≤ hi - lo := by
        rw [abs_of_nonneg (by linarith)]
        linarith

theorem trigOf_le_one (q : Nat) (x : ℝ) : trigOf q x ≤ 1 := by
  unfold trigOf
  split
  · exact Real.sin_le_one x
  · exact Real.cos_le_one x

/-- What a precision of the ladder settles is the sign and the rounding of the exact value. -/
theorem trigAt_sound {M shift P m : Nat} {neg : Bool} (hP : P ∈ ladder) (h : trigAt M shift P = some (neg, m)) :
    ∃ v : ℝ, 0 < v ∧ v ≤ 1 ∧ RoundsTo (v * 2 ^ unitBits) m ∧
      Real.sin (M / 2 ^ unitBits + shift * (Real.pi / 2)) = if neg then -v else v := by
  obtain ⟨n, lo, hi, hq, rfl, hs⟩ := trigAt_eq_some h
  obtain ⟨hlo2, hlo, hhi⟩ := quarterTurns_spec hq
  set q := (n + shift) % 4
  set r : ℝ := M / 2 ^ unitBits - n * (Real.pi / 2) with hr
  have hpos : (0 : ℝ) < 2 ^ P := pow_pos two_pos _
  have hle : lo ≤ hi := by exact_mod_cast hlo.trans hhi
  obtain ⟨hml, hmh⟩ := abs_le.1 (trigOf_move q hlo hhi)
  obtain ⟨hsl, hsh⟩ := abs_le.1 (trigSum_error hP hlo2 q)
  have hU : (0 : ℝ) < 2 ^ unitBits := pow_pos two_pos _
  have hscale : trigOf q r * 2 ^ unitBits = 2 ^ P * trigOf q r * 2 ^ unitBits / (2 ^ P : Nat) := by
    push_cast
    field_simp
  obtain ⟨hv, hround⟩ := settled_sound (v := trigOf q r * 2 ^ unitBits) hs (Nat.two_pow_pos P)
    (by rw [hscale]; push_cast [Nat.cast_sub hle]; gcongr; linarith)
    (by rw [hscale]; push_cast [Nat.cast_sub hle]; gcongr; linarith)
  refine ⟨trigOf q r, (mul_pos_iff_of_pos_right hU).1 hv, trigOf_le_one q r, hround, ?_⟩
  rw [show (M / 2 ^ unitBits + shift * (Real.pi / 2) : ℝ) = r + (n + shift : Nat) * (Real.pi / 2) by rw [hr]; push_cast; ring,
    sin_add_quarters]
  simp only [decide_eq_true_eq, q]

/-! ### The obligation -/

/-- Where one precision settles the rounding, the ladder finds one that does. -/
theorem exists_findSome?_ladder {α : Type} {f : Nat → Option α} (h : ∃ P ∈ ladder, f P ≠ none) :
    ∃ b, ladder.findSome? f = some b ∧ ∃ P ∈ ladder, f P = some b := by
  obtain ⟨P, hP, hne⟩ := h
  cases hb : ladder.findSome? f with
  | none => exact absurd (List.findSome?_eq_none_iff.1 hb P hP) hne
  | some b => exact ⟨b, rfl, List.exists_of_findSome?_eq_some hb⟩

/-- The pattern made of what a precision settles is nearest to the exact sine, negated or not; the bound 1.0 cuts nothing off. -/
theorem trigAt_nearest {M shift P m : Nat} {neg : Bool} (hP : P ∈ ladder) (h : trigAt M shift P = some (neg, m)) (s : Bool) :
    NearestReal (if s then -Real.sin (M / 2 ^ unitBits + shift * (Real.pi / 2)) else Real.sin (M / 2 ^ unitBits + shift * (Real.pi / 2)))
      (packBits (neg != s) (min m oneMag)) := by
  obtain ⟨v, hv0, hv1, hround, hsin⟩ := trigAt_sound hP h
  have hm : m ≤ oneMag := by
    refine hround.le_of_le_unitsOf ?_
    rw [unitsOf_oneMag, Nat.cast_pow, Nat.cast_ofNat]
    exact mul_le_of_le_one_left (pow_nonneg zero_le_two _) hv1
  have hnear := hround.nearestReal (hm.trans_lt (by decide)) hv0.le (neg != s)
  rw [min_eq_left hm, hsin]
  cases neg <;> cases s <;> simpa using hnear

section
variable {x : F64}

theorem sin_valueOf : Real.sin ((valueOf x : ℝ) / 2 ^ unitBits) =
    if signBit x then -Real.sin (unitsOf (magBits x) / 2 ^ unitBits) else Real.sin (unitsOf (magBits x) / 2 ^ unitBits) := by
  unfold valueOf
  split <;> simp [neg_div]

theorem cos_valueOf : Real.cos ((valueOf x : ℝ) / 2 ^ unitBits) = Real.cos (unitsOf (magBits x) / 2 ^ unitBits) := by
  unfold valueOf
  split <;> simp [neg_div]

variable (hf : isFinite x = true) (hz : isZero x = false)
include hf hz

theorem fsinRef_nearest (h : ∃ P ∈ ladder, trigAt (unitsOf (magBits x)) 0 P ≠ none) :
    NearestReal (Real.sin ((valueOf x : ℝ) / 2 ^ unitBits)) (fsinRef x) := by
  obtain ⟨⟨neg, m⟩, hfind, P, hP, hat⟩ := exists_findSome?_ladder h
  have hnear := trigAt_nearest hP hat (signBit x)
  rw [Nat.cast_zero, zero_mul, add_zero] at hnear
  rwa [fsinRef_of_settled hf hz hfind, sin_valueOf]

theorem fcosRef_nearest (h : ∃ P ∈ ladder, trigAt (unitsOf (magBits x)) 1 P ≠ none) :
    NearestReal (Real.cos ((valueOf x : ℝ) / 2 ^ unitBits)) (fcosRef x) := by
  obtain ⟨⟨neg, m⟩, hfind, P, hP, hat⟩ := exists_findSome?_ladder h
  have hnear := trigAt_nearest hP hat false
  rw [Nat.cast_one, one_mul, Real.sin_add_pi_div_two, Bool.bne_false] at hnear
  rwa [fcosRef_of_settled hf hz hfind, cos_valueOf]

end

/-- Settles O48: the ladder finds a precision that settles the rounding, and what any of them settles is nearest. -/
theorem sineAndCosineRefAreNearest : Obligations.SineAndCosineRefAreNearest := fun _ hf hz =>
  ⟨fsinRef_nearest hf hz, fcosRef_nearest hf hz⟩

end Sys2Proof.Machine
end

section
/-! The power of ten of `NUM_REF` (spec 40_numerics.md R100): the whole part is exact, and the exponential of the fractional part times the
logarithm of ten lies between the two ends of the enclosure. -/

namespace Sys2Proof.Machine

/-! ### The sum of the exponential -/

theorem log_ten_le : Real.log 10 ≤ 7 / 3 := by
  have h7 : (10 : ℝ) ^ 3 ≤ Real.exp 1 ^ 7 := by
    calc (10 : ℝ) ^ 3 ≤ 2.7 ^ 7 := by norm_num
      _ ≤ Real.exp 1 ^ 7 := by
        gcongr
        linarith [Real.exp_one_gt_d9]
  have hlog := Real.log_le_log (by norm_num) h7
  rw [Real.log_pow, Real.log_pow, Real.log_exp] at hlog
  push_cast at hlog
  linarith

/-- The exponential lies above its tangent. -/
theorem exp_sub_exp_le (x y : ℝ) : Real.exp y - Real.exp x ≤ Real.exp y * (y - x) := by
  have h := mul_le_mul_of_nonneg_left (Real.add_one_le_exp (x - y)) (Real.exp_pos y).le
  rw [← Real.exp_add, add_sub_cancel] at h
  linarith

theorem exp_three_le : Real.exp 3 ≤ 21 := by
  rw [show (3 : ℝ) = 1 + 1 + 1 by norm_num, Real.exp_add, Real.exp_add]
  calc Real.exp 1 * Real.exp 1 * Real.exp 1 ≤ 2.72 * 2.72 * 2.72 := by
        gcongr <;> linarith [Real.exp_one_lt_d9]
    _ ≤ 21 := by norm_num

section
variable {P z : Nat}

/-- How short of its exact value `a` a term `t` may be before its division by `k`: nothing at first, never more than 3. -/
def TermShort (a : ℝ) (t k : Nat) : Prop := t ≤ a ∧ 5 * (a - t) ≤ 6 * (k - 1) ∧ a - t ≤ 3

/-- What a shortfall `d` before the division by `k` comes to after it, the exponent being at most `7/3`. -/
theorem shortfall_carried {d : ℝ} {k : Nat} (hk : 1 ≤ k) (hsmall : 5 * d ≤ 6 * (k - 1)) (h3 : d ≤ 3) :
    d * (7 / 3) / k ≤ 2 ∧ 5 * (d * (7 / 3) / k) ≤ 6 * k - 5 := by
  have hk0 : (0 : ℝ) < k := Nat.cast_pos.2 hk
  rw [← mul_div_assoc (5 : ℝ), div_le_iff₀ hk0, div_le_iff₀ hk0]
  constructor
  · rcases le_or_gt k 3 with hk3 | hk4
    · have : (k : ℝ) ≤ 3 := by exact_mod_cast hk3
      linarith
    · have : (4 : ℝ) ≤ k := by exact_mod_cast hk4
      linarith
  · rcases hk.eq_or_lt with rfl | hk2
    · norm_num at hsmall ⊢
      linarith
    · have : (2 : ℝ) ≤ k := by exact_mod_cast hk2
      nlinarith

theorem expTerm_next (hz : (z : ℝ) / 2 ^ P ≤ 7 / 3) {a : ℝ} {t k : Nat} (hk : 1 ≤ k) (h : TermShort a t k) :
    TermShort (a * (z / 2 ^ P / k)) (t * z / (2 ^ P * k)) (k + 1) := by
  obtain ⟨hta, hsmall, h3⟩ := h
  obtain ⟨h0, h1⟩ := div_sub_floor_div (a := (t * z : Nat)) (Nat.cast_nonneg _) (2 ^ P * k)
  have hexact : ((t * z : Nat) : ℝ) / (2 ^ P * k : Nat) = t * (z / 2 ^ P / k) := by
    push_cast
    field_simp
  rw [Nat.floor_natCast, hexact] at h0 h1
  have hcarry0 : 0 ≤ (a - t) * (z / 2 ^ P / k) := mul_nonneg (by linarith) (by positivity)
  have hcarry : (a - t) * (z / 2 ^ P / k) ≤ (a - t) * (7 / 3) / k := by
    rw [← mul_div_assoc]
    gcongr
  obtain ⟨hcarry2, hcarryk⟩ := shortfall_carried hk hsmall h3
  refine ⟨by linarith, ?_, by linarith⟩
  push_cast
  linarith

/-- What the truncation leaves out after `n` terms goes over to the term after the first. -/
theorem expRest_le (hz : (z : ℝ) / 2 ^ P ≤ 7 / 3) {a : ℝ} (ha : 0 ≤ a) {k : Nat} (hk : 1 ≤ k) (n : Nat) :
    21 * (a * (z / 2 ^ P / k)) * 3 ^ n / (k + 1).ascFactorial n ≤ 21 * a * 3 ^ (n + 1) / k.ascFactorial (n + 1) := by
  have hk0 : (0 : ℝ) < k := Nat.cast_pos.2 hk
  have hasc : 0 < (k + 1).ascFactorial n := Nat.ascFactorial_pos _ _
  rw [ascFactorial_succ_left]
  push_cast
  calc 21 * (a * (z / 2 ^ P / k : ℝ)) * 3 ^ n / (k + 1).ascFactorial n
      ≤ 21 * (a * (3 / k)) * 3 ^ n / (k + 1).ascFactorial n := by
        gcongr
        linarith
    _ = 21 * a * 3 ^ (n + 1) / (k * (k + 1).ascFactorial n) := by
        field_simp
        ring

theorem expTerms_error (hz : (z : ℝ) / 2 ^ P ≤ 7 / 3) (n : Nat) {a : ℝ} {t k : Nat} (hk : 1 ≤ k) (h : TermShort a t k) :
    0 ≤ a * riseSeries (z / 2 ^ P : ℝ) k - expTerms P z n t k ∧
    a * riseSeries (z / 2 ^ P : ℝ) k - expTerms P z n t k ≤ 3 * n + 21 * a * 3 ^ n / k.ascFactorial n := by
  have hx0 : (0 : ℝ) ≤ z / 2 ^ P := by positivity
  induction n generalizing a t k with
  | zero =>
    have ha : 0 ≤ a := (Nat.cast_nonneg t).trans h.1
    have hlo : 0 ≤ riseSeries (z / 2 ^ P : ℝ) k := tsum_nonneg fun n => by positivity
    have hhi : riseSeries (z / 2 ^ P : ℝ) k ≤ 21 := by
      refine (Real.le_norm_self _).trans ((norm_riseSeries_le hk).trans ((Real.exp_le_exp.2 ?_).trans exp_three_le))
      rw [Real.norm_of_nonneg hx0]
      linarith
    simp only [expTerms, Nat.cast_zero, pow_zero, Nat.ascFactorial_zero, Nat.cast_one]
    constructor <;> nlinarith
  | succ n ih =>
    have ha : 0 ≤ a := (Nat.cast_nonneg t).trans h.1
    obtain ⟨hlo, hhi⟩ := ih (by omega : 1 ≤ k + 1) (expTerm_next hz hk h)
    have hsplit : a * riseSeries (z / 2 ^ P : ℝ) k = a + a * (z / 2 ^ P / k) * riseSeries (z / 2 ^ P : ℝ) (k + 1) := by
      rw [riseSeries_succ hk]
      ring
    have hrest := expRest_le hz ha hk n
    obtain ⟨hta, -, h3⟩ := h
    rw [hsplit, expTerms, Nat.cast_add, Nat.cast_succ]
    constructor <;> linarith

end

/-- At each precision of the ladder the series is long enough. -/
theorem expRest_ladder {P : Nat} (hP : P ∈ ladder) : 21 * 2 ^ P * 3 ^ expCount P ≤ (expCount P).factorial := by
  have h : ∀ P ∈ ladder, 21 * 2 ^ P * 3 ^ expCount P ≤ (expCount P).factorial := by decide +kernel
  exact h P hP

theorem expSum_error {P z : Nat} (hP : P ∈ ladder) (hz : (z : ℝ) / 2 ^ P ≤ 7 / 3) :
    0 ≤ 2 ^ P * Real.exp (z / 2 ^ P) - expTerms P z (expCount P) (2 ^ P) 1 ∧
    2 ^ P * Real.exp (z / 2 ^ P) - expTerms P z (expCount P) (2 ^ P) 1 ≤ 3 * expCount P + 1 := by
  have hshort : TermShort (2 ^ P : Nat) (2 ^ P) 1 := ⟨le_rfl, by norm_num, by norm_num⟩
  obtain ⟨hlo, hhi⟩ := expTerms_error hz (expCount P) le_rfl hshort
  have hrest : 21 * (2 ^ P : Nat) * 3 ^ expCount P / (Nat.ascFactorial 1 (expCount P) : ℝ) ≤ 1 := by
    rw [Nat.one_ascFactorial, div_le_one (Nat.cast_pos.2 (Nat.factorial_pos _))]
    exact_mod_cast expRest_ladder hP
  rw [riseSeries_one, ← Real.exp_eq_exp_ℝ, Nat.cast_pow, Nat.cast_ofNat] at hlo hhi
  rw [Nat.cast_pow, Nat.cast_ofNat] at hrest
  exact ⟨hlo, by linarith⟩

/-! ### The fractional part -/

section
variable {P F : Nat}

/-- The lower and the upper end of the exponent `F ln 10` units, in units of `2^-P`. -/
def exponentLo (P F : Nat) : Nat := F * ln10Lo (P + 16) / 2 ^ (unitBits + 16)

def exponentHi (P F : Nat) : Nat := F * ln10Hi (P + 16) / 2 ^ (unitBits + 16) + 1

theorem exp10Frac_eq (P F : Nat) : exp10Frac P F =
    (expTerms P (exponentLo P F) (expCount P) (2 ^ P) 1,
      expTerms P (exponentLo P F) (expCount P) (2 ^ P) 1 + 3 * expCount P + 2 + 12 * (exponentHi P F - exponentLo P F)) := rfl

theorem exponent_bounds (P F : Nat) :
    (exponentLo P F : ℝ) ≤ 2 ^ P * (Real.log 10 * (F / 2 ^ unitBits)) ∧
    2 ^ P * (Real.log 10 * (F / 2 ^ unitBits)) ≤ exponentHi P F := by
  obtain ⟨hlo, hhi⟩ := ln10_bounds (P + 16)
  have hU : (0 : ℝ) < 2 ^ unitBits := pow_pos two_pos _
  have hexact : 2 ^ P * (Real.log 10 * (F / 2 ^ unitBits)) = F * (2 ^ (P + 16) * Real.log 10) / (2 ^ (unitBits + 16) : Nat) := by
    rw [pow_add 2 P, pow_add 2 unitBits]
    push_cast
    generalize (2 : ℝ) ^ unitBits = U at hU ⊢
    generalize (2 : ℝ) ^ P = p
    field_simp
    norm_num
  have hF : (0 : ℝ) ≤ F := Nat.cast_nonneg F
  have hD : (0 : ℝ) < (2 ^ (unitBits + 16) : Nat) := Nat.cast_pos.2 (Nat.two_pow_pos _)
  obtain ⟨hl, -⟩ := div_sub_floor_div (a := (F * ln10Lo (P + 16) : Nat)) (Nat.cast_nonneg _) (2 ^ (unitBits + 16))
  obtain ⟨-, hh⟩ := div_sub_floor_div (a := (F * ln10Hi (P + 16) : Nat)) (Nat.cast_nonneg _) (2 ^ (unitBits + 16))
  rw [Nat.floor_natCast, Nat.cast_mul, ← exponentLo] at hl
  rw [Nat.floor_natCast, Nat.cast_mul] at hh
  rw [hexact, exponentHi, Nat.cast_succ]
  constructor
  · exact (sub_nonneg.1 hl).trans (div_le_div_of_nonneg_right (mul_le_mul_of_nonneg_left hlo hF) hD.le)
  · refine (div_le_div_of_nonneg_right (mul_le_mul_of_nonneg_left hhi hF) hD.le).trans ?_
    linarith

/-- `10^F` units lies in the enclosure of `exp10Frac`. -/
theorem exp10Frac_bounds (hP : P ∈ ladder) (hF : F < 2 ^ unitBits) :
    ((exp10Frac P F).1 : ℝ) ≤ 2 ^ P * (10 : ℝ) ^ (F / 2 ^ unitBits : ℝ) ∧
    2 ^ P * (10 : ℝ) ^ (F / 2 ^ unitBits : ℝ) ≤ (exp10Frac P F).2 := by
  obtain ⟨hzlo, hzhi⟩ := exponent_bounds P F
  have hP0 : (0 : ℝ) < 2 ^ P := pow_pos two_pos _
  have hU : (0 : ℝ) < 2 ^ unitBits := pow_pos two_pos _
  rw [Real.rpow_def_of_pos (by norm_num), exp10Frac_eq]
  set ζ : ℝ := Real.log 10 * (F / 2 ^ unitBits) with hζ
  have hlog0 : 0 ≤ Real.log 10 := Real.log_nonneg (by norm_num)
  have hζlog : ζ ≤ Real.log 10 := by
    refine mul_le_of_le_one_right hlog0 ((div_le_one hU).2 ?_)
    exact_mod_cast hF.le
  have hx : (exponentLo P F : ℝ) / 2 ^ P ≤ ζ := (div_le_iff₀' hP0).2 hzlo
  obtain ⟨helo, hehi⟩ := expSum_error hP (hx.trans (hζlog.trans log_ten_le))
  have hle : exponentLo P F ≤ exponentHi P F := by exact_mod_cast hzlo.trans hzhi
  have hmono : Real.exp (exponentLo P F / 2 ^ P) ≤ Real.exp ζ := Real.exp_le_exp.2 hx
  -- the exponential grows by less than 12 times the width
  have hten : Real.exp ζ ≤ 10 := (Real.exp_le_exp.2 hζlog).trans_eq (Real.exp_log (by norm_num))
  have hgrow : 2 ^ P * (Real.exp ζ - Real.exp (exponentLo P F / 2 ^ P)) ≤ 12 * (exponentHi P F - exponentLo P F) := by
    calc 2 ^ P * (Real.exp ζ - Real.exp (exponentLo P F / 2 ^ P))
        ≤ 2 ^ P * (Real.exp ζ * (ζ - exponentLo P F / 2 ^ P)) := mul_le_mul_of_nonneg_left (exp_sub_exp_le _ _) hP0.le
      _ = Real.exp ζ * (2 ^ P * ζ - exponentLo P F) := by field_simp
      _ ≤ 12 * (exponentHi P F - exponentLo P F) :=
        mul_le_mul (by linarith) (by linarith) (by linarith) (by norm_num)
  push_cast [Nat.cast_sub hle]
  constructor
  · linarith [mul_le_mul_of_nonneg_left hmono hP0.le]
  · linarith

end

/-! ### The whole part -/

/-- `10^i`, for a negative `i` too, is the ratio the model writes. -/
theorem ten_pow_div_ten_pow (i : Int) : (10 ^ i.toNat / 10 ^ (-i).toNat : ℝ) = 10 ^ (i : ℝ) := by
  rw [Real.rpow_intCast]
  rcases le_total 0 i with h | h
  · lift i to Nat using h
    simp
  · obtain ⟨n, rfl⟩ := Int.exists_eq_neg_ofNat h
    simp

theorem exp10Int_roundsTo (i : Int) : RoundsTo ((10 : ℝ) ^ (i : ℝ) * 2 ^ unitBits) (exp10Int i) := by
  have hden : 0 < 10 ^ (-i).toNat := Nat.pow_pos (by decide)
  have hratio : (10 : ℝ) ^ (i : ℝ) * 2 ^ unitBits = (2 ^ unitBits * 10 ^ i.toNat : Nat) / (10 ^ (-i).toNat : Nat) := by
    rw [← ten_pow_div_ten_pow]
    push_cast
    ring
  rw [hratio]
  exact roundUnits_roundsTo _ hden

theorem exp10At_roundsTo {i : Int} {F P m : Nat} (hP : P ∈ ladder) (hF : F < 2 ^ unitBits) (h : exp10At i F P = some m) :
    RoundsTo ((10 : ℝ) ^ (i + F / 2 ^ unitBits : ℝ) * 2 ^ unitBits) m := by
  obtain ⟨hlo, hhi⟩ := exp10Frac_bounds hP hF
  have hP0 : (0 : ℝ) < 2 ^ P := pow_pos two_pos _
  have hup : (0 : ℝ) ≤ (2 ^ unitBits * 10 ^ i.toNat : Nat) := Nat.cast_nonneg _
  have hden : 0 < 2 ^ P * 10 ^ (-i).toNat := Nat.mul_pos (Nat.two_pow_pos P) (Nat.pow_pos (by decide))
  have hden' : (0 : ℝ) < (2 ^ P * 10 ^ (-i).toNat : Nat) := Nat.cast_pos.2 hden
  have hexact : (10 : ℝ) ^ (i + F / 2 ^ unitBits : ℝ) * 2 ^ unitBits =
      2 ^ P * (10 : ℝ) ^ (F / 2 ^ unitBits : ℝ) * (2 ^ unitBits * 10 ^ i.toNat : Nat) / (2 ^ P * 10 ^ (-i).toNat : Nat) := by
    rw [Real.rpow_add (by norm_num), ← ten_pow_div_ten_pow]
    push_cast
    generalize (10 : ℝ) ^ (F / 2 ^ unitBits : ℝ) = f
    field_simp
  rw [exp10At_eq] at h
  refine (settled_sound h hden ?_ ?_).2 <;> rw [hexact, Int.cast_natCast, Nat.cast_mul (_ : Nat) (2 ^ unitBits * _)]
  · exact div_le_div_of_nonneg_right (mul_le_mul_of_nonneg_right hlo hup) hden'.le
  · exact div_le_div_of_nonneg_right (mul_le_mul_of_nonneg_right hhi hup) hden'.le

/-! ### The obligation -/

section
variable {x : F64}

theorem fracOf_lt (x : F64) : fracOf x < 2 ^ unitBits := by
  have hpos : (0 : Int) < (2 ^ unitBits : Nat) := Int.natCast_pos.2 (Nat.two_pow_pos _)
  have hlt := Int.emod_lt_of_pos (valueOf x) hpos
  have hnonneg := Int.emod_nonneg (valueOf x) hpos.ne'
  unfold fracOf
  omega

/-- A value is its floor and its fractional part. -/
theorem valueOf_eq_floor_add_frac (x : F64) : (valueOf x : ℝ) / 2 ^ unitBits = floorOf x + fracOf x / 2 ^ unitBits := by
  have hU : (0 : ℝ) < 2 ^ unitBits := pow_pos two_pos _
  have hpos : (0 : Int) < (2 ^ unitBits : Nat) := Int.natCast_pos.2 (Nat.two_pow_pos _)
  have hfrac : (fracOf x : Int) = valueOf x % (2 ^ unitBits : Nat) := Int.toNat_of_nonneg (Int.emod_nonneg _ hpos.ne')
  have hsplit : (2 ^ unitBits : Nat) * floorOf x + fracOf x = valueOf x := by
    rw [hfrac]
    exact Int.mul_ediv_add_emod _ _
  rw [← hsplit]
  push_cast
  field_simp

theorem two_pow_succ_le_ten_pow {c n : Nat} (h : c + 1 ≤ 3 * n) : 2 * 2 ^ c ≤ 10 ^ n :=
  calc 2 * 2 ^ c = 2 ^ (c + 1) := (pow_succ' ..).symm
    _ ≤ 2 ^ (3 * n) := Nat.pow_le_pow_right two_pos h
    _ = (2 ^ 3) ^ n := pow_mul ..
    _ ≤ 10 ^ n := Nat.pow_le_pow_left (by decide) n

/-- From -400 down the power is at most half a unit. -/
theorem ten_rpow_roundsTo_zero {y : ℝ} (hy : y ≤ -400) : RoundsTo ((10 : ℝ) ^ y * 2 ^ unitBits) 0 where
  le_infMag := Nat.zero_le _
  above _ hj := absurd hj (Nat.not_lt_zero _)
  below _ j hj := by
    have hsmall : (10 : ℝ) ^ y ≤ (10 ^ 400)⁻¹ := by
      refine (Real.rpow_le_rpow_of_exponent_le (by norm_num) hy).trans_eq ?_
      rw [Real.rpow_neg (by norm_num), ← Real.rpow_natCast, Nat.cast_ofNat]
    have hpow : (2 * 2 ^ unitBits : ℝ) ≤ 10 ^ 400 := by
      exact_mod_cast two_pow_succ_le_ten_pow (c := unitBits) (n := 400) (by decide)
    have hunit : (1 : ℝ) ≤ unitsOf j := by exact_mod_cast unitsOf_pos hj.ne'
    refine ⟨?_, fun _ => Even.zero⟩
    calc 2 * ((10 : ℝ) ^ y * 2 ^ unitBits) = 10 ^ y * (2 * 2 ^ unitBits) := by ring
      _ ≤ (10 ^ 400)⁻¹ * 10 ^ 400 := mul_le_mul hsmall hpow (by positivity) (by positivity)
      _ = 1 := inv_mul_cancel₀ (by positivity)
      _ ≤ unitsOf 0 + unitsOf j := by rw [unitsOf_zero, Nat.cast_zero, zero_add]; exact hunit

theorem fexp10Ref_roundsTo (hf : isFinite x = true) (hfin : isFinite (fexp10Ref x) = true)
    (h : fracOf x = 0 ∨ ∃ P ∈ ladder, exp10At (floorOf x) (fracOf x) P ≠ none) :
    ∃ m, fexp10Ref x = packBits false m ∧ RoundsTo ((10 : ℝ) ^ ((valueOf x : ℝ) / 2 ^ unitBits) * 2 ^ unitBits) m := by
  rcases le_or_gt (400 * 2 ^ unitBits) (unitsOf (magBits x)) with hfar | hnear
  · have hdef := fexp10Ref_of_far (not_isNaN_of_isFinite hf) (.inr hfar)
    cases hs : signBit x with
    | false =>
      rw [hdef, hs] at hfin
      exact absurd hfin (by decide)
    | true =>
      refine ⟨0, by rw [hdef, hs]; decide, ten_rpow_roundsTo_zero ?_⟩
      rw [div_le_iff₀ (pow_pos two_pos _), valueOf, if_pos hs, Int.cast_neg, Int.cast_natCast, neg_mul, neg_le_neg_iff]
      exact_mod_cast hfar
  rw [valueOf_eq_floor_add_frac]
  by_cases hz : fracOf x = 0
  · refine ⟨_, fexp10Ref_of_integer hf hnear hz, ?_⟩
    rw [hz, Nat.cast_zero, zero_div, add_zero]
    exact exp10Int_roundsTo _
  · obtain ⟨m, hfind, P, hP, hat⟩ := exists_findSome?_ladder (h.resolve_left hz)
    exact ⟨m, fexp10Ref_of_settled hf hnear hz hfind, exp10At_roundsTo hP (fracOf_lt x) hat⟩

end

/-- Settles O49: the whole power, the settled one and the vanishing one are roundings of the exact value. -/
theorem powerOfTenRefIsNearest : Obligations.PowerOfTenRefIsNearest := by
  intro x hf hfin h
  obtain ⟨m, hpack, hround⟩ := fexp10Ref_roundsTo hf hfin h
  have hm : m < infMag := by
    rwa [isFinite_iff, hpack, magBits_packBits (lt_two_pow_of_le_infMag hround.le_infMag)] at hfin
  rw [hpack]
  exact hround.nearestReal hm (Real.rpow_nonneg (by norm_num) _) false

end Sys2Proof.Machine
end

section
/-! The parameter commands (spec 41_parameter_commands.md R120, R124 to R127): what each of them writes, and that no setter knows of
the delay registers and a non-shelf type knows nothing of the gain. -/

namespace Sys2Proof.Machine

/-! ### What SETQ, SETGAIN and SETTYPE write: the operand, and the coefficients derived with it (R124 to R126) -/

section
variable (c : Config) (s : State)

theorem setQOp_eq (v : F64) :
    setQOp c v s = { s with q := v, coef := s.rate.map fun r => coefOf c r s.cutHz v s.gainDb s.ftype } := rfl

theorem setGainOp_eq (g : F64) :
    setGainOp c g s = { s with gainDb := g, coef := s.rate.map fun r => coefOf c r s.cutHz s.q g s.ftype } := rfl

theorem setTypeOp_eq (y : FilterType) :
    setTypeOp c y s = { s with ftype := y, coef := s.rate.map fun r => coefOf c r s.cutHz s.q s.gainDb y } := rfl

end

theorem exec_setQ (v : F64) (s : State) : exec (.setQ v) s = .next (setQOp config v s) := rfl

theorem exec_setGain (g : F64) (s : State) : exec (.setGain g) s = .next (setGainOp config g s) := rfl

/-! ### Setters and the delay registers (R120, R127) -/

section
variable {i : Instr} {s t : State}

/-- R120: a setter that goes on writes the parameters, the coefficients and the smoother, and no other field. -/
theorem exec_setter_writes (hProcess : ∀ u, i ≠ .process u) (hx : exec i s = .next t) :
    t = { s with
      rate := t.rate, ftype := t.ftype, cutHz := t.cutHz, q := t.q, gainDb := t.gainDb, coef := t.coef, sm := t.sm } := by
  obtain ⟨r, -, rfl⟩ | ⟨x, -, rfl⟩ | ⟨v, -, rfl⟩ | ⟨g, -, rfl⟩ | ⟨sel, y, -, -, rfl⟩ | ⟨u, rfl, -⟩ := exec_next_cases hx
  · rfl
  · rfl
  · rfl
  · rfl
  · rfl
  · exact absurd rfl (hProcess u)

/-- R127: a setter reads no delay register, so other ones may be put under it. -/
theorem exec_setter_writeDelay (hProcess : ∀ u, i ≠ .process u) (hx : exec i s = .next t) (d : Delay) :
    exec i (s.writeDelay d) = .next (t.writeDelay d) := by
  obtain ⟨r, rfl, rfl⟩ | ⟨x, rfl, rfl⟩ | ⟨v, rfl, rfl⟩ | ⟨g, rfl, rfl⟩ | ⟨sel, y, rfl, hy, rfl⟩ | ⟨u, rfl, -⟩ :=
    exec_next_cases hx
  · rfl
  · rfl
  · rfl
  · rfl
  · exact exec_setType hy _
  · exact absurd rfl (hProcess u)

end

/-! ### The gain and the non-shelf types (R125) -/

/-- R156: the raw coefficients of a non-shelf type are the same for every gain. -/
theorem rawCoef_gain_of_nonShelf (c : Config) {t : FilterType} (ht : isShelf t = false) (g g' : F64)
    (k : CommonTerms) :
    rawCoef c t g k = rawCoef c t g' k := by
  cases t with
  | lowPass | highPass | bandPass | notch => rfl
  | lowShelf | highShelf => simp [isShelf] at ht

theorem derivedCoef_writeGain_of_nonShelf (c : Config) {s : State} (ht : isShelf s.ftype = false) (g : F64) :
    derivedCoef c (s.writeGain g) = derivedCoef c s := by
  simp [derivedCoef, coefOf, rawCoef_gain_of_nonShelf c ht g s.gainDb]

/-- R125: where the coefficients are those of the parameters, deriving them again with another gain writes what stands there. -/
theorem setGainOp_of_nonShelf {c : Config} {s : State} (hcons : Consistent c s) (ht : isShelf s.ftype = false) (g : F64) :
    setGainOp c g s = s.writeGain g := by
  have hcoef : derivedCoef c (s.writeGain g) = (s.writeGain g).coef :=
    (derivedCoef_writeGain_of_nonShelf c ht g).trans hcons.symm
  rw [setGainOp, State.derive, hcoef]
  rfl

/-! ### The obligations -/

/-- Settles O18: the fields a setter writes are none of those named, and it does not read the delay registers. -/
theorem settersIgnoreDelayAndResponse : Obligations.SettersIgnoreDelayAndResponse := by
  intro i s t hProcess hx
  have hwrites := exec_setter_writes hProcess hx
  refine ⟨?_, ?_, ?_, ?_, exec_setter_writeDelay hProcess hx⟩
  all_goals rw [hwrites]

/-- Settles O21: for a non-shelf type SETGAIN is the write of the gain. -/
theorem gainUnusedByNonShelfTypes : Obligations.GainUnusedByNonShelfTypes := by
  intro g s hcons ht
  rw [exec_setGain, setGainOp_of_nonShelf hcons ht]
  rfl

/-- Settles O17: each of the three goes on to what it writes, SETTYPE as every type's code names that type; a code above 5 names
none. -/
theorem setQSetGainSetTypeResults : Obligations.SetQSetGainSetTypeResults := by
  intro s
  refine ⟨fun v => ?_, fun g => ?_, fun t => ?_, exec_setType_refused (by decide) s, exec_setType_refused (by decide) s⟩
  · rw [exec_setQ, setQOp_eq]
  · rw [exec_setGain, setGainOp_eq]
  · rw [exec_setType (typeOfCode_typeCode t), setTypeOp_eq]

end Sys2Proof.Machine
end

section
/-! Exact results (spec 40_numerics.md R91 to R93): products by `1.0` and by a zero, and sums with a zero, return an operand or a
zero without rounding. -/

namespace Sys2Proof.Machine

section
variable {a b v z : F64}

/-! ### Products -/

/-- The exact product of a finite value by `1.0` is that value, which is rounded to itself. -/
theorem fmul_one (ha : isFinite a = true) : fmul a one = a := by
  have hsign : (signBit a != signBit one) = signBit a := Bool.xor_false _
  have hone : unitsOf (magBits one) = 2 ^ unitBits := unitsOf_oneMag
  have hround : roundUnits (unitsOf (magBits a) * 2 ^ unitBits) (2 ^ unitBits) = magBits a := by
    refine (roundUnits_roundsTo _ (Nat.two_pow_pos _)).eq_of_eq_unitsOf (isFinite_iff.1 ha).le ?_
    rw [Nat.cast_mul, mul_div_cancel_right₀ _ (Nat.cast_ne_zero.2 (Nat.two_pow_pos _).ne')]
  rw [fmul_of_isFinite ha (by decide), hsign, hone, hround, packBits_signBit_magBits]

theorem isZero_fmul (ha : isFinite a = true) (hz : isZero z = true) : isZero (fmul a z) = true := by
  rw [fmul_of_isFinite ha (isFinite_of_isZero hz), isZero_iff.1 hz, unitsOf_zero, Nat.mul_zero, roundUnits_zero (Nat.two_pow_pos _)]
  exact isZero_packBits_zero

/-! ### Sums -/

/-- R91: a sum that is exactly the value of a pattern other than a zero is that pattern. -/
theorem fadd_of_exact (ha : isFinite a = true) (hb : isFinite b = true) (hv : isFinite v = true) (hv0 : isZero v = false)
    (hsum : valueOf a + valueOf b = valueOf v) : fadd a b = v := by
  have hne : valueOf a + valueOf b ≠ 0 := by rw [hsum, Ne, valueOf_eq_zero_iff, hv0]; decide
  rw [fadd_of_sum_ne_zero ha hb hne, hsum, natAbs_valueOf, roundUnits_of_unitsOf_eq (isFinite_iff.1 hv).le rfl]
  simp only [valueOf_neg_iff hv0, Bool.decide_eq_true, packBits_signBit_magBits]

section
variable (ha : isFinite a = true) (ha0 : isZero a = false) (hz : isZero z = true)
include ha ha0 hz

theorem fadd_zero_right : fadd a z = a :=
  fadd_of_exact ha (isFinite_of_isZero hz) ha ha0 (by rw [valueOf_eq_zero_iff.2 hz, add_zero])

theorem fadd_zero_left : fadd z a = a :=
  fadd_of_exact (isFinite_of_isZero hz) ha ha ha0 (by rw [valueOf_eq_zero_iff.2 hz, zero_add])

theorem fsub_zero_right : fsub a z = a := by
  have hnz := not_isNaN_of_isFinite (isFinite_of_isZero hz)
  have hneg : isZero (fneg z) = true := by rwa [isZero, magBits_fneg hnz]
  rw [fsub_of_not_isNaN (not_isNaN_of_isFinite ha) hnz, fadd_zero_right ha ha0 hneg]

end

end

end Sys2Proof.Machine
end

section
/-! PROCESS (spec 42_process_sample.md R140 to R147): what it does at rest, mid-ramp and without coefficients, how a NaN in `y1` and a
unit impulse go through the difference equation, and the fault bit that no edge without `rst` clears (60_exceptions.md R192). -/

namespace Sys2Proof.Machine

/-! ### Step 1, and when it leaves coefficients (R141, R146) -/

section
variable {c : Config} {s : State}

/-- R172: the last step lands on the target, every other one adds the increment. -/
theorem advance_moving {m : Smoother} (h : m.rem ≠ 0) :
    m.advance = { m with cur := if m.rem = 1 then m.tgt else fadd m.cur m.step, rem := m.rem - 1 } := by
  have hlast : m.rem - 1 = 0 ↔ m.rem = 1 := by omega
  simp only [Smoother.advance, hlast]

theorem smoothStep_cutHz : (smoothStep c s).cutHz = if s.sm.rem = 0 then s.cutHz else s.sm.advance.cur := by
  obtain ⟨hrem, hstep⟩ | ⟨hrem, hstep⟩ := smoothStep_cases c s
  · rw [hstep, if_pos hrem]
  · rw [hstep, if_neg hrem]
    rfl

/-- Step 1 in full while the smoother moves and there is a rate to derive with (R141, R172). -/
theorem smoothStep_moving_of_rate (c : Config) {s : State} {r : F64} (hrem : s.sm.rem ≠ 0) (hr : s.rate = some r) :
    let cur := if s.sm.rem = 1 then s.sm.tgt else fadd s.sm.cur s.sm.step
    smoothStep c s = { s with
      cutHz := cur, sm := { s.sm with cur := cur, rem := s.sm.rem - 1 },
      coef := some (coefOf c r cur s.q s.gainDb s.ftype) } := by
  rw [smoothStep_moving c s hrem, advance_moving hrem, State.derive, derivedCoef_some (r := r)]
  · rfl
  · exact hr

/-- Step 1 derives whenever it moves the cutoff, so it keeps R33. -/
theorem Consistent.smoothStep (h : Consistent c s) : Consistent c (smoothStep c s) := by
  obtain ⟨-, hstep⟩ | ⟨-, hstep⟩ := smoothStep_cases c s
  · rwa [hstep]
  · rw [hstep]
    rfl

/-- The guard of R140: under R33 PROCESS lacks coefficients exactly while there is no rate. -/
theorem Consistent.smoothStep_coef_eq_none_iff (h : Consistent c s) : (Machine.smoothStep c s).coef = none ↔ s.rate = none := by
  rw [h.smoothStep.coef_eq_none_iff, smoothStep_rate]

/-- R146: without a rate step 1 runs as written, and the coefficients stay none. -/
theorem Consistent.smoothStep_of_rate_none (h : Consistent c s) (hr : s.rate = none) :
    Machine.smoothStep c s = { s with
      sm := if s.sm.rem = 0 then s.sm else s.sm.advance,
      cutHz := if s.sm.rem = 0 then s.cutHz else s.sm.advance.cur } := by
  have hcoef : (Machine.smoothStep c s).coef = s.coef := by
    rw [h.smoothStep_coef_eq_none_iff.2 hr, h.coef_eq_none_iff.2 hr]
  rw [smoothStep_writes, hcoef, smoothStep_cutHz, smoothStep_sm]

end

/-! ### PROCESS with and without coefficients (R142, R143, R146) -/

section
variable {c : Config} {s : State} (u : F64)

theorem processOp_of_coef {k : Coef} (hk : (smoothStep c s).coef = some k) :
    processOp c u s = finishSample u (outputOf k s.delay u) (smoothStep c s) := by
  simp [processOp, hk]

theorem processOp_of_coef_none (hk : (smoothStep c s).coef = none) : processOp c u s = finishUnspecified u (smoothStep c s) := by
  simp [processOp, hk]

theorem exec_process_atRest {k : Coef} (hrem : s.sm.rem = 0) (hk : s.coef = some k) :
    exec (.process u) s = .next (finishSample u (outputOf k s.delay u) s) := by
  have hstep := smoothStep_atRest config s hrem
  rw [exec_process, processOp_of_coef u (by rwa [hstep]), hstep]

end

/-! ### The fault bit stays set (R192) -/

section
variable {c : Config} {s t : State} (hs : s.fault = true)
include hs

theorem processOp_fault_of_fault (u : F64) : (processOp c u s).fault = true := by
  obtain ⟨k, -, hp⟩ | ⟨-, hp⟩ := processOp_cases c s u
  · rw [hp]
    exact (smoothStep_fault c s).trans hs
  · rw [hp, finishUnspecified_fault]

theorem execWith_next_fault_of_fault {i : Instr} (hx : execWith c i s = .next t) : t.fault = true := by
  obtain ⟨r, -, rfl⟩ | ⟨x, -, rfl⟩ | ⟨v, -, rfl⟩ | ⟨g, -, rfl⟩ | ⟨sel, y, -, -, rfl⟩ | ⟨u, -, rfl⟩ := execWith_next_cases hx
  · exact hs
  · exact hs
  · exact hs
  · exact hs
  · exact hs
  · exact processOp_fault_of_fault hs u

theorem completeWordBy_fault_of_fault (w : CmdWord) : (completeWordBy (execWith c) w s).fault = true := by
  obtain ⟨i, -, hx⟩ | ⟨r, hr⟩ := completeWordBy_execWith_cases c w s
  · exact execWith_next_fault_of_fault hs hx
  · rw [hr, State.markRefusal_fault, hs]

/-- R192: of all that an edge can do only the reset clears the fault bit. -/
theorem clockEdgeWith_fault_of_fault {e : Edge} (hrst : e.pins.rst = false) : (clockEdgeWith c e s).fault = true := by
  unfold clockEdgeWith
  obtain ⟨hreset, -⟩ | ⟨f, -, he⟩ | ⟨f, -, he⟩ | ⟨-, he⟩ | ⟨-, -, he⟩ := clockEdgeBy_cases c (execWith c) e s
  · exact absurd hreset (by rw [hrst]; decide)
  · rw [he]
    exact completeWordBy_fault_of_fault (s := s.setInFlight none) hs f.word
  · rwa [he]
  · rw [he]
    cases e.pins.rspReady <;> simpa using hs
  · rwa [he]

end

theorem clockEdges_fault_of_fault {es : List Edge} {s : State} (hes : ∀ e ∈ es, e.pins.rst = false) (hs : s.fault = true) :
    (clockEdges es s).fault = true := by
  induction es generalizing s with
  | nil => exact hs
  | cons e es ih =>
    obtain ⟨hrst, hes⟩ := List.forall_mem_cons.1 hes
    exact ih hes (clockEdgeWith_config e s ▸ clockEdgeWith_fault_of_fault hs hrst)

/-! ### A NaN in `y1` (R147) -/

/-- The fourth product is the NaN of arithmetic, and so is every difference from there on. -/
theorem outputOf_of_isNaN_y1 (k : Coef) {d : Delay} (u : F64) (h : isNaN d.y1 = true) : outputOf k d u = qNaN := by
  rw [outputOf, fmul_of_isNaN (.inr h), fsub_of_isNaN (b := qNaN) (.inr (by decide)), fsub_of_isNaN (.inl (by decide))]

/-! ### A unit impulse (R145) -/

section
variable {k : Coef} (hb0 : isFinite k.b0 = true) (hb1 : isFinite k.b1 = true) (hb2 : isFinite k.b2 = true)
  (ha2 : isFinite k.a2 = true)
include hb0 hb1 hb2 ha2

/-- The impulse itself: the first product is `b0`, and the four others are zeros. -/
theorem outputOf_impulse (ha1 : isFinite k.a1 = true) (hb00 : isZero k.b0 = false) :
    outputOf k { x1 := 0#64, x2 := 0#64, y1 := 0#64, y2 := 0#64 } one = k.b0 := by
  have hzero : isZero 0#64 = true := rfl
  rw [outputOf, fmul_one hb0, fadd_zero_right hb0 hb00 (isZero_fmul hb1 hzero), fadd_zero_right hb0 hb00 (isZero_fmul hb2 hzero),
    fsub_zero_right hb0 hb00 (isZero_fmul ha1 hzero), fsub_zero_right hb0 hb00 (isZero_fmul ha2 hzero)]

/-- The sample after it: the products with a zero leave `b1` and then `b1 - a1*b0` as they are. -/
theorem outputOf_after_impulse (hb10 : isZero k.b1 = false) (hf : isFinite (fsub k.b1 (fmul k.a1 k.b0)) = true)
    (h0 : isZero (fsub k.b1 (fmul k.a1 k.b0)) = false) :
    outputOf k { x1 := one, x2 := 0#64, y1 := k.b0, y2 := 0#64 } 0#64 = fsub k.b1 (fmul k.a1 k.b0) := by
  have hzero : isZero 0#64 = true := rfl
  rw [outputOf, fmul_one hb1, fadd_zero_left hb1 hb10 (isZero_fmul hb0 hzero), fadd_zero_right hb1 hb10 (isZero_fmul hb2 hzero),
    fsub_zero_right hf h0 (isZero_fmul ha2 hzero)]

end

/-! ### The obligations -/

/-- Settles O24: under R33 the guard of the strict reading stands exactly while there is no rate; with one the difference equation is
computed, without one the output is a free value, and the fault bit it sets stays set. -/
theorem processBeforeRate : Obligations.ProcessBeforeRate := by
  intro u s hcons
  have hguard := hcons.smoothStep_coef_eq_none_iff
  constructor
  · intro hr
    obtain ⟨k, hk⟩ := Option.ne_none_iff_exists'.1 (mt hguard.1 hr)
    have hlacks : lacksCoef config (.process u) s = false := by simp [lacksCoef, hk]
    refine ⟨by simp [strictExec, guarded, hlacks], _, exec_process u s, ?_⟩
    rw [processOp_of_coef u hk]
    exact smoothStep_fault config s
  · intro hr
    have hlacks : lacksCoef config (.process u) s = true := by simp [lacksCoef, hguard.2 hr]
    refine ⟨by simp [strictExec, guarded, hlacks, faultOutcome], Config.unspecifiedSample s.free, _, exec_process u s, ?_, ?_⟩
    · rw [processOp_of_coef_none u (hguard.2 hr), hcons.smoothStep_of_rate_none hr]
      rfl
    · intro es hes
      rw [processOp_of_coef_none u (hguard.2 hr)]
      exact clockEdges_fault_of_fault hes (finishUnspecified_fault _ u)

/-- Settles O25: a setter writes no delay register, and PROCESS shifts the NaN of arithmetic into `y1`. -/
theorem nanInY1Sticks : Obligations.NanInY1Sticks := by
  intro i s t hnan hcoef hx
  by_cases hProcess : ∃ u, i = .process u
  · obtain ⟨u, rfl⟩ := hProcess
    obtain ⟨k, hk⟩ := Option.ne_none_iff_exists'.1 (hcoef u rfl)
    rw [exec_process, processOp_of_coef u hk, outputOf_of_isNaN_y1 k u hnan] at hx
    cases hx
    exact ⟨(by decide : isNaN qNaN = true), fun _ _ => rfl⟩
  · rw [exec_setter_writes (not_exists.1 hProcess) hx]
    exact ⟨hnan, fun u hu => absurd ⟨u, hu⟩ hProcess⟩

/-- Settles O26: two samples at rest, the second on the delay registers the first leaves. -/
theorem impulseAnsweredByB0ThenB1 : Obligations.ImpulseAnsweredByB0ThenB1 := by
  intro s t1 k hrem hk hdelay hb0 hb1 hb2 ha1 ha2 hb00 hx1
  have hfirst : exec (.process one) s = .next (finishSample one k.b0 s) := by
    rw [exec_process_atRest one hrem hk, hdelay, outputOf_impulse hb0 hb1 hb2 ha2 ha1 hb00]
  obtain rfl : finishSample one k.b0 s = t1 := Host.Outcome.next.inj (hfirst.symm.trans hx1)
  refine ⟨rfl, fun t2 hb10 h0 hf hx2 => ?_⟩
  have hdelay1 : (finishSample one k.b0 s).delay = { x1 := one, x2 := 0#64, y1 := k.b0, y2 := 0#64 } := by
    rw [finishSample_delay, hdelay]
    rfl
  rw [exec_process_atRest 0#64 (s := finishSample one k.b0 s) hrem hk, hdelay1,
    outputOf_after_impulse hb0 hb1 hb2 ha2 hb10 hf h0] at hx2
  cases hx2
  rfl

/-- Settles O22: steps 2 to 4 alone, since step 1 does nothing at rest. -/
theorem processAtRestResult : Obligations.ProcessAtRestResult := fun u _ _ hrem hk => exec_process_atRest u hrem hk

/-- Settles O23: steps 2 to 4 on the state step 1 leaves. -/
theorem processMovingResult : Obligations.ProcessMovingResult := by
  intro u r s hrem hr cur k out
  have hstep := smoothStep_moving_of_rate config hrem hr
  rw [exec_process, processOp_of_coef u (k := k) (by rw [hstep]), hstep]
  rfl

end Sys2Proof.Machine
end

section
/-! More of the arithmetic (spec 40_numerics.md R91 to R94, R96): how large a product is, quotients by `2.0` and by the operand itself,
signs that move between factors, and the results that are a NaN. -/

namespace Sys2Proof.Machine

section
variable {a b x z : F64}

/-! ### NaN in, NaN out, and no NaN from finite operands (R97) -/

theorem isNaN_fadd (h : isNaN a = true ∨ isNaN b = true) : isNaN (fadd a b) = true := by
  rw [fadd_of_isNaN h]
  decide

theorem isNaN_fsub (h : isNaN a = true ∨ isNaN b = true) : isNaN (fsub a b) = true := by
  rw [fsub_of_isNaN h]
  decide

theorem isNaN_fmul (h : isNaN a = true ∨ isNaN b = true) : isNaN (fmul a b) = true := by
  rw [fmul_of_isNaN h]
  decide

theorem isNaN_fdiv (h : isNaN a = true ∨ isNaN b = true) : isNaN (fdiv a b) = true := by
  rw [fdiv_of_isNaN h]
  decide

theorem not_isFinite_of_isInf (h : isInf x = true) : isFinite x = false :=
  decide_eq_false (isInf_iff.1 h ▸ lt_irrefl _)

theorem not_isNaN_packBits_roundUnits {s : Bool} {num den : Nat} : isNaN (packBits s (roundUnits num den)) = false := by
  rw [isNaN_eq_false_iff, magBits_packBits_roundUnits]
  exact roundUnits_le_infMag num den

section
variable (ha : isFinite a = true) (hb : isFinite b = true)
include ha hb

theorem not_isNaN_fadd : isNaN (fadd a b) = false := by
  by_cases h : valueOf a + valueOf b = 0
  · rw [fadd_of_sum_eq_zero ha hb h]
    exact not_isNaN_of_isFinite (isFinite_of_isZero isZero_packBits_zero)
  · rw [fadd_of_sum_ne_zero ha hb h]
    exact not_isNaN_packBits_roundUnits

theorem not_isNaN_fsub : isNaN (fsub a b) = false := by
  have hn := not_isNaN_of_isFinite hb
  rw [fsub_of_not_isNaN (not_isNaN_of_isFinite ha) hn]
  exact not_isNaN_fadd ha ((isFinite_fneg hn).trans hb)

theorem not_isNaN_fmul : isNaN (fmul a b) = false := by
  rw [fmul_of_isFinite ha hb]
  exact not_isNaN_packBits_roundUnits

end

/-- A finite sum with a finite operand has another finite operand. -/
theorem isFinite_right_of_isFinite_fadd (ha : isFinite a = true) (h : isFinite (fadd a b) = true) : isFinite b = true := by
  have hn : isNaN b = false := Bool.eq_false_iff.2 fun hb => by
    rw [fadd_of_isNaN (.inr hb)] at h
    exact absurd h (by decide)
  refine (isFinite_or_isInf_of_not_isNaN hn).resolve_right fun hi => ?_
  rw [fadd_infinity_right hi (.inl ha), not_isFinite_of_isInf hi] at h
  exact Bool.false_ne_true h

/-! ### The size of a product (R93) -/

section
variable (ha : isFinite a = true) (hb : isFinite b = true)
include ha hb

theorem magBits_le_fmul (h : oneMag ≤ magBits a) : magBits b ≤ magBits (fmul a b) := by
  have hone : 2 ^ unitBits ≤ unitsOf (magBits a) :=
    unitsOf_oneMag.symm.trans_le (unitsOf_strictMono.monotone h)
  rw [fmul_of_isFinite ha hb, magBits_packBits_roundUnits]
  refine (roundUnits_roundsTo _ (Nat.two_pow_pos _)).le_of_unitsOf_le (isFinite_iff.1 hb).le ?_
  rw [le_div_iff₀ (Nat.cast_pos.2 (Nat.two_pow_pos _)), mul_comm]
  exact_mod_cast Nat.mul_le_mul_right _ hone

theorem magBits_fmul_le (h : magBits b ≤ oneMag) : magBits (fmul a b) ≤ magBits a := by
  have hone : unitsOf (magBits b) ≤ 2 ^ unitBits :=
    (unitsOf_strictMono.monotone h).trans_eq unitsOf_oneMag
  rw [fmul_of_isFinite ha hb, magBits_packBits_roundUnits]
  refine (roundUnits_roundsTo _ (Nat.two_pow_pos _)).le_of_le_unitsOf ?_
  rw [div_le_iff₀ (Nat.cast_pos.2 (Nat.two_pow_pos _))]
  exact_mod_cast Nat.mul_le_mul_left _ hone

/-- A sign moves from one factor to the other. -/
theorem fmul_fneg_right : fmul a (fneg b) = fmul (fneg a) b := by
  have hna := not_isNaN_of_isFinite ha
  have hnb := not_isNaN_of_isFinite hb
  rw [fmul_of_isFinite ha ((isFinite_fneg hnb).trans hb), fmul_of_isFinite ((isFinite_fneg hna).trans ha) hb, magBits_fneg hna,
    magBits_fneg hnb, signBit_fneg hna, signBit_fneg hnb]
  cases signBit a <;> cases signBit b <;> rfl

end

theorem isZero_fmul_left (hb : isFinite b = true) (hz : isZero z = true) : isZero (fmul z b) = true := by
  rw [fmul_comm, isZero_fmul hb hz]

/-- `1.0` is neutral for every value, the infinities included. -/
theorem one_fmul (hx : isNaN x = false) : fmul one x = x := by
  rw [fmul_comm]
  rcases isFinite_or_isInf_of_not_isNaN hx with hf | hi
  · exact fmul_one hf
  · rw [fmul_infinity hi (by decide) (by decide), ← isInf_iff.1 hi]
    exact (congrArg (packBits · (magBits x)) (Bool.xor_false _)).trans (packBits_signBit_magBits x)

/-! ### Quotients (R94) -/

theorem fdiv_self (ha : isFinite a = true) (hz : isZero a = false) : fdiv a a = one := by
  have hpos : 0 < unitsOf (magBits a) := unitsOf_pos (isZero_eq_false_iff.1 hz)
  have hround : roundUnits (unitsOf (magBits a) * 2 ^ unitBits) (unitsOf (magBits a)) = oneMag := by
    refine (roundUnits_roundsTo _ hpos).eq_of_eq_unitsOf (by decide) ?_
    rw [unitsOf_oneMag, Nat.cast_mul, mul_div_cancel_left₀ _ (Nat.cast_ne_zero.2 hpos.ne')]
  rw [fdiv_of_isFinite ha ha, if_neg (by simp [hz]), hround, bne_self_eq_false]
  decide

theorem isZero_fdiv (hz : isZero z = true) (hb : isFinite b = true) (hb0 : isZero b = false) : isZero (fdiv z b) = true := by
  rw [fdiv_of_isFinite (isFinite_of_isZero hz) hb, if_neg (by simp [hb0]), isZero_iff.1 hz, unitsOf_zero, Nat.zero_mul,
    roundUnits_zero (unitsOf_pos (isZero_eq_false_iff.1 hb0))]
  exact isZero_packBits_zero

/-- Over a zero, whatever is neither a zero nor a NaN gives an infinity. -/
theorem isInf_fdiv_zero (ha : isNaN a = false) (ha0 : isZero a = false) (hz : isZero z = true) : isInf (fdiv a z) = true := by
  have hzf := isFinite_of_isZero hz
  rcases isFinite_or_isInf_of_not_isNaN ha with hf | hi
  · rw [fdiv_of_isFinite hf hzf, if_pos hz, if_neg (by simp [ha0])]
    exact isInf_packBits_infMag
  · have hdiv : fdiv a z = packBits (signBit a != signBit z) infMag := by
      simp [fdiv, hi, ha, not_isNaN_of_isFinite hzf, not_isInf_of_isFinite hzf]
    rw [hdiv]
    exact isInf_packBits_infMag

/-- One less in the exponent field of a normal number is half the value. -/
theorem unitsOf_eq_two_mul {m : Nat} (h : 2 ^ 53 ≤ m) : unitsOf m = 2 * unitsOf (m - 2 ^ 52) := by
  obtain ⟨n, k, hm, hn, hk⟩ := exists_significand (m - 2 ^ 52)
  have h52 : 2 ^ 52 ≤ n := by omega
  rw [hm, show m = n + (k + 1) * 2 ^ 52 by omega, unitsOf_add_mul hn.le (.inr h52), unitsOf_add_mul hn.le (.inr h52), pow_succ]
  ring

theorem unitsOf_two : unitsOf (magBits two) = 2 * 2 ^ unitBits := by
  rw [unitsOf_eq_two_mul (by decide), show magBits two - 2 ^ 52 = oneMag by decide, unitsOf_oneMag]

section
variable (hf : isFinite a = true) (h : 2 ^ 53 ≤ magBits a)
include hf h

/-- Halving is exact as long as the result is a normal number: one less in the exponent field. -/
theorem fdiv_two : fdiv a two = packBits (signBit a) (magBits a - 2 ^ 52) := by
  have hround : roundUnits (unitsOf (magBits a) * 2 ^ unitBits) (2 * 2 ^ unitBits) = magBits a - 2 ^ 52 := by
    refine (roundUnits_roundsTo _ (by positivity)).eq_of_eq_unitsOf ((Nat.sub_le _ _).trans (isFinite_iff.1 hf).le) ?_
    rw [unitsOf_eq_two_mul h, mul_right_comm, Nat.cast_mul, mul_div_cancel_left₀ _ (Nat.cast_ne_zero.2 (by positivity))]
  rw [fdiv_of_isFinite hf (by decide), if_neg (by decide), unitsOf_two, hround]
  exact congrArg (packBits · _) (Bool.xor_false _)

theorem magBits_fdiv_two : magBits (fdiv a two) = magBits a - 2 ^ 52 := by
  rw [fdiv_two hf h, magBits_packBits ((Nat.sub_le _ _).trans_lt (magBits_lt a))]

theorem isFinite_fdiv_two : isFinite (fdiv a two) = true := by
  rw [isFinite_iff, magBits_fdiv_two hf h]
  exact (Nat.sub_le _ _).trans_lt (isFinite_iff.1 hf)

theorem two_mul_valueOf_fdiv_two : 2 * valueOf (fdiv a two) = valueOf a := by
  have hsign : signBit (fdiv a two) = signBit a := by
    rw [fdiv_two hf h, signBit_packBits ((Nat.sub_le _ _).trans_lt (magBits_lt a))]
  rw [valueOf, valueOf, hsign, magBits_fdiv_two hf h, unitsOf_eq_two_mul h]
  split <;> push_cast <;> ring

end

/-! ### Differences (R92) -/

/-- A zero less a value that is no zero is that value negated. -/
theorem fsub_zero_left (ha : isFinite a = true) (ha0 : isZero a = false) (hz : isZero z = true) : fsub z a = fneg a := by
  have hn := not_isNaN_of_isFinite ha
  have hneg0 : isZero (fneg a) = false := by rwa [isZero, magBits_fneg hn]
  rw [fsub_of_not_isNaN (not_isNaN_of_isFinite (isFinite_of_isZero hz)) hn, fadd_zero_left ((isFinite_fneg hn).trans ha) hneg0 hz]

theorem fneg_fadd_self (ha : isFinite a = true) : fadd (fneg a) a = 0#64 := by
  have hn := not_isNaN_of_isFinite ha
  rw [fadd_of_sum_eq_zero ((isFinite_fneg hn).trans ha) ha (by rw [valueOf_fneg hn, neg_add_cancel]), signBit_fneg hn,
    Bool.not_and_self]
  rfl

end

end Sys2Proof.Machine
end

section
/-! The coefficient engine (spec 43_coefficient_engine.md R150 to R161): what `derive()` reads and writes, the high-pass numerator in
binary64, a shelf at 0 dB, and the parameters that give NaN coefficients. -/

namespace Sys2Proof.Machine

/-! ### The high-pass numerator (R153) -/

/-- Whatever is below `2^(53 + j)` aside, a value is a multiple of `2^j` units. -/
theorem two_pow_dvd_unitsOf_or_lt (m j : Nat) : 2 ^ j ∣ unitsOf m ∨ unitsOf m < 2 ^ (53 + j) := by
  obtain ⟨n, k, rfl, hn, hk⟩ := exists_significand m
  rw [unitsOf_add_mul hn.le hk]
  rcases le_total j k with hjk | hkj
  · exact .inl (Dvd.dvd.mul_left (pow_dvd_pow 2 hjk) n)
  · right
    calc n * 2 ^ k < 2 ^ 53 * 2 ^ k := Nat.mul_lt_mul_of_pos_right hn (Nat.two_pow_pos k)
      _ ≤ 2 ^ 53 * 2 ^ j := Nat.mul_le_mul_left _ (Nat.pow_le_pow_right two_pos hkj)
      _ = 2 ^ (53 + j) := (pow_add 2 53 j).symm

section
variable {x : F64} (hx : magBits x ≤ oneMag)
include hx

theorem valueOf_bounds : -2 ^ unitBits ≤ valueOf x ∧ valueOf x ≤ 2 ^ unitBits := by
  rw [← abs_le, Int.abs_eq_natAbs, natAbs_valueOf]
  exact_mod_cast (unitsOf_strictMono.monotone hx).trans_eq unitsOf_oneMag

/-- `1.0` plus a value from `-1.0` to `1.0` is zero or far from the subnormal numbers: a value near `-1.0` is a multiple of `2^53` units, so
the sum is one, and any other value leaves most of the `1.0`. -/
theorem two_pow_le_one_add (hne : 2 ^ unitBits + valueOf x ≠ 0) : 2 ^ 53 ≤ 2 ^ unitBits + valueOf x := by
  obtain ⟨hlow, -⟩ := valueOf_bounds hx
  rcases two_pow_dvd_unitsOf_or_lt (magBits x) 53 with hdvd | hlt
  · have hdvd' : (2 ^ 53 : Int) ∣ valueOf x := by
      rw [← natAbs_valueOf] at hdvd
      exact_mod_cast Int.natCast_dvd.2 hdvd
    exact Int.le_of_dvd (by omega) (dvd_add (pow_dvd_pow 2 (by decide)) hdvd')
  · have hbig : (2 ^ 107 : Int) ≤ 2 ^ unitBits := pow_le_pow_right₀ (by decide) (by decide)
    rw [← natAbs_valueOf] at hlt
    omega

/-- The `t` of R153 is a zero, or it is finite and its half is a normal number. -/
theorem one_fadd_cases : fadd one x = posZero ∨ (isFinite (fadd one x) = true ∧ 2 ^ 53 ≤ magBits (fadd one x)) := by
  have hxf : isFinite x = true := isFinite_iff.2 (hx.trans_lt (by decide))
  have hone : valueOf one = 2 ^ unitBits := by
    rw [valueOf_of_signBit_eq_false (by decide)]
    exact_mod_cast unitsOf_oneMag
  by_cases hsum : valueOf one + valueOf x = 0
  · left
    rw [fadd_of_sum_eq_zero (by decide) hxf hsum]
    rfl
  · right
    obtain ⟨hneg, hpos⟩ := valueOf_bounds hx
    have hfar := two_pow_le_one_add hx (hone ▸ hsum)
    have hlow : 2 ^ 53 ≤ (valueOf one + valueOf x).natAbs := by omega
    have hhigh : (valueOf one + valueOf x).natAbs ≤ 2 * 2 ^ unitBits := by zify; rw [hone, abs_le]; omega
    have hround := roundUnits_roundsTo (valueOf one + valueOf x).natAbs one_pos
    rw [Nat.cast_one, div_one] at hround
    rw [fadd_of_sum_ne_zero (by decide) hxf hsum, isFinite_iff, magBits_packBits_roundUnits]
    constructor
    · exact (hround.le_of_le_unitsOf (Nat.cast_le.2 (hhigh.trans_eq unitsOf_two.symm))).trans_lt (by decide)
    · exact hround.le_of_unitsOf_le (by decide) (Nat.cast_le.2 ((by decide : unitsOf (2 ^ 53) = 2 ^ 53) ▸ hlow))

end

/-- A half, less the whole, plus the other half: both sums are exact where the half is. -/
theorem half_sub_whole_add_half {t : F64} (hf : isFinite t = true) (h : 2 ^ 53 ≤ magBits t) :
    fadd (fadd (fdiv t two) (fneg t)) (fdiv t two) = 0#64 := by
  have hn := not_isNaN_of_isFinite hf
  have hhf := isFinite_fdiv_two hf h
  have hhn := not_isNaN_of_isFinite hhf
  have hfirst : fadd (fdiv t two) (fneg t) = fneg (fdiv t two) := by
    refine fadd_of_exact hhf ((isFinite_fneg hn).trans hf) ((isFinite_fneg hhn).trans hhf) ?_ ?_
    · rw [isZero_eq_false_iff, magBits_fneg hhn, magBits_fdiv_two hf h]
      omega
    · rw [valueOf_fneg hn, valueOf_fneg hhn, ← two_mul_valueOf_fdiv_two hf h]
      ring
  rw [hfirst, fneg_fadd_self hhf]

/-- Settles O36: `t` is zero, where all three coefficients are zeros, or it halves exactly. -/
theorem highPassNumeratorSumsToZero : Obligations.HighPassNumeratorSumsToZero := by
  intro k hk
  change fadd (fadd (fdiv (fadd one k.cs) two) (fneg (fadd one k.cs))) (fdiv (fadd one k.cs) two) = 0#64
  rcases one_fadd_cases hk with hzero | ⟨hf, h⟩
  · rw [hzero]
    decide +kernel
  · exact half_sub_whole_add_half hf h

/-! ### A shelf at 0 dB (R161, first row) -/

/-- At 0 dB `A` is `1.0`, so `A + 1` is `2.0`, `A - 1` is `+0.0`, and the square root is `1.0`. -/
theorem shelfTerms_zeroGain {n : Num} (hn : NumLawful n) {g : F64} (hg : isZero g = true) (k : CommonTerms) :
    shelfTerms n g k =
      { a := one, ap1 := two, am1 := posZero, beta := fmul two k.alpha, am1c := fmul posZero k.cs, ap1c := fmul two k.cs } := by
  have ha : n.fexp10 (fdiv g forty) = one := hn.exp10_zero _ (isZero_fdiv hg (by decide) (by decide))
  have hap1 : fadd one one = two := by decide +kernel
  have ham1 : fsub one one = posZero := fsub_self (by decide)
  have hroot : fmul two (fsqrt one) = two := by decide +kernel
  simp only [shelfTerms, ha, hap1, ham1, hroot]

/-- At 0 dB the terms in `A - 1` vanish, and the two shelves have the same raw coefficients: each numerator is `1.0` times the
denominator. -/
theorem rawCoef_shelf_zeroGain {c : Config} (hn : NumLawful c.num) {g : F64} (hg : isZero g = true) {t : FilterType}
    (ht : isShelf t = true) {k : CommonTerms} (hcs : magBits k.cs ≤ oneMag) (hcs0 : isZero k.cs = false) :
    rawCoef c t g k = {
      b0 := fmul one (fadd two (fmul two k.alpha)), b1 := fmul negTwo (fmul two k.cs),
      b2 := fmul one (fsub two (fmul two k.alpha)),
      a0 := fadd two (fmul two k.alpha), a1 := fmul negTwo (fmul two k.cs), a2 := fsub two (fmul two k.alpha) } := by
  have hcsf : isFinite k.cs = true := isFinite_iff.2 (hcs.trans_lt (by decide))
  have hxf : isFinite (fmul two k.cs) = true :=
    isFinite_iff.2 ((magBits_fmul_le (by decide) hcsf hcs).trans_lt (by decide))
  have hx0 : isZero (fmul two k.cs) = false := by
    have hle := magBits_le_fmul (a := two) (by decide) hcsf (by decide)
    rw [isZero_eq_false_iff] at hcs0 ⊢
    omega
  have hz : isZero (fmul posZero k.cs) = true := isZero_fmul_left hcsf (by decide)
  have hsub : fsub two (fmul posZero k.cs) = two := fsub_zero_right (by decide) (by decide) hz
  have hadd : fadd two (fmul posZero k.cs) = two := fadd_zero_right (by decide) (by decide) hz
  have hleft : fadd posZero (fmul two k.cs) = fmul two k.cs := fadd_zero_left hxf hx0 (by decide)
  have hneg : fsub posZero (fmul two k.cs) = fneg (fmul two k.cs) := fsub_zero_left hxf hx0 (by decide)
  have htwo : fmul two one = two := fmul_one (by decide)
  have hnegTwo : fmul negTwo one = negTwo := fmul_one (by decide)
  have hmove : fmul two (fneg (fmul two k.cs)) = fmul negTwo (fmul two k.cs) := fmul_fneg_right (by decide) hxf
  cases t with
  | lowPass | highPass | bandPass | notch => simp [isShelf] at ht
  | lowShelf => simp only [rawCoef, rawLowShelf, shelfTerms_zeroGain hn hg, hsub, hadd, hleft, hneg, htwo, hmove]
  | highShelf => simp only [rawCoef, rawHighShelf, shelfTerms_zeroGain hn hg, hsub, hadd, hleft, hneg, hnegTwo, hmove]

/-- Settles O37: the raw numerator is the raw denominator bit for bit, so the quotients are equal, and the first is a quotient of equals. -/
theorem shelfAtZeroGainIsUnity : Obligations.ShelfAtZeroGainIsUnity := by
  intro c rate cutHz q gainDb t hn hg ht hw hcs0 hf h0
  have hraw := rawCoef_shelf_zeroGain (k := commonTerms c.num rate cutHz q) hn hg ht (hn.cos_bound _ hw) hcs0
  rw [hraw] at hf h0
  have hbeta := isFinite_right_of_isFinite_fadd (by decide) hf
  simp only [coefOf, hraw, divideByA0, one_fmul (not_isNaN_of_isFinite hf), one_fmul (not_isNaN_fsub (a := two) (by decide) hbeta),
    fdiv_self hf h0, and_self, and_true]
  rfl

/-! ### NaN coefficients (R161) -/

theorem divideByA0_of_isNaN_a0 {r : RawCoef} (h : isNaN r.a0 = true) :
    divideByA0 r = { b0 := qNaN, b1 := qNaN, b2 := qNaN, a1 := qNaN, a2 := qNaN } := by
  simp only [divideByA0, fdiv_of_isNaN (.inr h)]

/-- Every type adds `alpha`, or a multiple of it, to raw `a0` last. -/
theorem isNaN_a0_of_isNaN_alpha (c : Config) (t : FilterType) (g : F64) {k : CommonTerms} (h : isNaN k.alpha = true) :
    isNaN (rawCoef c t g k).a0 = true := by
  cases t with
  | lowPass | highPass | notch => exact isNaN_fadd (.inr h)
  | bandPass =>
    unfold rawCoef rawBandPass
    cases c.bpf <;> exact isNaN_fadd (.inr h)
  | lowShelf | highShelf => exact isNaN_fadd (.inr (isNaN_fmul (.inr h)))

/-- The shelf types add `A` to raw `a0` first. -/
theorem isNaN_a0_of_isNaN_gain {c : Config} (hn : NumLawful c.num) {t : FilterType} (ht : isShelf t = true) {g : F64}
    (hg : isNaN g = true) (k : CommonTerms) : isNaN (rawCoef c t g k).a0 = true := by
  have ha : isNaN (c.num.fexp10 (fdiv g forty)) = true := by
    rw [hn.exp10_nan _ (isNaN_fdiv (.inl hg))]
    decide
  have hap1 : isNaN (fadd (c.num.fexp10 (fdiv g forty)) one) = true := isNaN_fadd (.inl ha)
  cases t with
  | lowPass | highPass | bandPass | notch => simp [isShelf] at ht
  | lowShelf => exact isNaN_fadd (.inl (isNaN_fadd (.inl hap1)))
  | highShelf => exact isNaN_fadd (.inl (isNaN_fsub (.inl hap1)))

/-- A zero rate under a cutoff that is no zero makes `omega` infinite. -/
theorem isInf_omegaOf_zeroRate {rate cutHz : F64} (hr : isZero rate = true) (hf : isFinite cutHz = true)
    (h0 : isZero cutHz = false) : isInf (omegaOf cutHz rate) = true := by
  refine isInf_fdiv_zero (not_isNaN_fmul (by decide) hf) ?_ hr
  have hle := magBits_le_fmul (a := twoPi) (by decide) hf (by decide)
  rw [isZero_eq_false_iff] at h0 ⊢
  omega

theorem isNaN_alpha_of_isInf_omega {n : Num} (hn : NumLawful n) {rate cutHz : F64} (h : isInf (omegaOf cutHz rate) = true) (q : F64) :
    isNaN (commonTerms n rate cutHz q).alpha = true := by
  refine isNaN_fdiv (.inl ?_)
  rw [hn.sin_nonfinite _ (not_isFinite_of_isInf h)]
  decide

/-- Settles O38: in each of the three cases raw `a0` is a NaN, and everything is divided by it. -/
theorem pathologicalParametersGiveNanCoefficients : Obligations.PathologicalParametersGiveNanCoefficients := by
  intro c rate cutHz q gainDb t hn h
  refine divideByA0_of_isNaN_a0 ?_
  obtain hq | ⟨hr, hf, h0⟩ | ⟨hg, ht⟩ := h
  · exact isNaN_a0_of_isNaN_alpha c t gainDb (isNaN_fdiv (.inr (isNaN_fmul (.inr hq))))
  · exact isNaN_a0_of_isNaN_alpha c t gainDb (isNaN_alpha_of_isInf_omega hn (isInf_omegaOf_zeroRate hr hf h0) q)
  · exact isNaN_a0_of_isNaN_gain hn ht hg _

/-! ### `derive()` (R150, R160) -/

/-- Settles O32: `derive()` writes `derivedCoef`, which reads five registers, the coefficients not among them. -/
theorem deriveIsPure : Obligations.DeriveIsPure := by
  intro c s k
  refine ⟨rfl, rfl, rfl, fun hr => ?_, fun t hr hc hq hg ht => ?_⟩
  · rw [State.derive_coef, derivedCoef_none c s hr]
  · rw [State.derive_coef, State.derive_coef, derivedCoef_congr c hr hc hq hg ht]

/-! ### The formulas, primitive by primitive (R151 to R159) -/

/-- Settles O33: `coefOf` unfolds to the rule's raw values over raw `a0`, and raw `b1` is written as raw `a1` is. -/
theorem notchB1EqualsA1 : Obligations.NotchB1EqualsA1 := fun _ _ _ _ _ => ⟨rfl, rfl⟩

theorem coefOf_bandPass {c : Config} {v : BpfVariant} (hv : c.bpf = v) (rate cutHz q gainDb : F64) :
    coefOf c rate cutHz q gainDb .bandPass = divideByA0 (rawBandPass v (commonTerms c.num rate cutHz q)) := by
  rw [coefOf, rawCoef, hv]

/-- Settles O34: `coefOf` unfolds to the rules' raw values over raw `a0`, for the band-pass once the variant is known. -/
theorem nonShelfCoefficientFormulas : Obligations.NonShelfCoefficientFormulas := fun _ rate cutHz q gainDb =>
  ⟨rfl, rfl, fun hv => coefOf_bandPass hv rate cutHz q gainDb, fun hv => coefOf_bandPass hv rate cutHz q gainDb⟩

/-- Settles O35: `coefOf` unfolds to the rules' raw values over raw `a0`. -/
theorem shelfCoefficientFormulas : Obligations.ShelfCoefficientFormulas := fun _ _ _ _ _ => ⟨rfl, rfl⟩

end Sys2Proof.Machine
end

section
/-! The smoother (spec 44_smoothing_ramp_gen.md R170 to R175; 41_parameter_commands.md R122, R123): what SETRATE and SETCUT write, how
it leaves rest and returns to it, and the ramp that the samples after a SETCUT follow. -/

namespace Sys2Proof.Machine

/-! ### What SETRATE and SETCUT write (R122, R123) -/

section
variable (c : Config) (s : State)

theorem setRateOp_eq (r : F64) : setRateOp c r s = { s with
    rate := some r, sm := s.sm.reclock c r, coef := some (coefOf c r s.cutHz s.q s.gainDb s.ftype) } := rfl

theorem setCutOp_eq (h : F64) : setCutOp h s = { s with
    sm := { s.sm with tgt := h, step := stepOver s.sm.cur h s.sm.len, rem := s.sm.len } } := rfl

end

/-! ### Rest (R170) -/

/-- R173: a re-clock neither starts a ramp nor ends one, since a ramp has at least one step. -/
theorem reclock_rem_eq_zero_iff {c : Config} (hw : 1 ≤ c.cntW) (r : F64) (m : Smoother) :
    (m.reclock c r).rem = 0 ↔ m.rem = 0 := by
  by_cases hm : m.rem = 0
  · simp [reclock_atRest c r hm, hm]
  · simp [reclock_moving c r hm, hm, Nat.one_le_iff_ne_zero.1 (one_le_rampLen hw r)]

/-- All that a command can do to the remaining steps: SETCUT starts a full ramp, PROCESS takes one step off, every other one keeps rest
rest and a ramp a ramp. -/
theorem exec_next_rem_cases {i : Instr} {s t : State} (hx : exec i s = .next t) :
    (∃ h, i = .setCut h ∧ t.sm.rem = s.sm.len) ∨
    (∃ u, i = .process u ∧ t.sm.rem = s.sm.rem - 1) ∨
    (t.sm.rem = 0 ↔ s.sm.rem = 0) := by
  obtain ⟨r, -, rfl⟩ | ⟨h, hi, rfl⟩ | ⟨v, -, rfl⟩ | ⟨g, -, rfl⟩ | ⟨sel, y, -, -, rfl⟩ | ⟨u, hi, rfl⟩ := exec_next_cases hx
  · exact .inr (.inr (reclock_rem_eq_zero_iff (by decide) r s.sm))
  · exact .inl ⟨h, hi, rfl⟩
  · exact .inr (.inr .rfl)
  · exact .inr (.inr .rfl)
  · exact .inr (.inr .rfl)
  · exact .inr (.inl ⟨u, hi, by simp⟩)

/-! ### Samples one after another (R175) -/

section
variable {c : Config} {s : State}

@[simp] theorem processOp_rate (u : F64) : (processOp c u s).rate = s.rate := by
  obtain ⟨k, -, hp⟩ | ⟨-, hp⟩ := processOp_cases c s u
  all_goals
    rw [hp]
    exact smoothStep_rate c s

/-- R146: with a rate there are coefficients after step 1, and PROCESS sets no fault bit. -/
theorem Consistent.processOp_fault (h : Consistent c s) (hr : s.rate ≠ none) (u : F64) :
    (processOp c u s).fault = s.fault := by
  obtain ⟨k, -, hp⟩ | ⟨hnone, -⟩ := processOp_cases c s u
  · rw [hp]
    exact smoothStep_fault c s
  · exact absurd (h.smoothStep_coef_eq_none_iff.1 hnone) hr

/-- With a rate, samples keep the invariant of the registers and the fault bit. -/
theorem RegsOk.processAll (h : RegsOk c s) (hr : s.rate ≠ none) (us : List F64) :
    RegsOk c (processAll c us s) ∧ (processAll c us s).fault = s.fault := by
  induction us generalizing s with
  | nil => exact ⟨h, rfl⟩
  | cons u us ih =>
    obtain ⟨hregs, hfault⟩ := ih (h.processOp u) (by rwa [processOp_rate])
    exact ⟨hregs, hfault.trans (h.1.processOp_fault hr u)⟩

/-- R172: one sample of a moving smoother is one step of its ramp. -/
theorem processOp_sm_moving (hrem : s.sm.rem ≠ 0) (u : F64) : (processOp c u s).sm = { s.sm with
    cur := if s.sm.rem = 1 then s.sm.tgt else fadd s.sm.cur s.sm.step, rem := s.sm.rem - 1 } := by
  rw [processOp_sm, smoothStep_sm, if_neg hrem, advance_moving hrem]

/-- Before its last step a ramp has added the increment once for each sample. -/
theorem processAll_sm_before_last_step (c : Config) {us : List F64} {s : State} (hlt : us.length < s.sm.rem) :
    (processAll c us s).sm = { s.sm with
      cur := addTimes s.sm.step us.length s.sm.cur, rem := s.sm.rem - us.length } := by
  induction us generalizing s with
  | nil => rfl
  | cons u us ih =>
    rw [List.length_cons] at hlt
    have hstep : (processOp c u s).sm = { s.sm with cur := fadd s.sm.cur s.sm.step, rem := s.sm.rem - 1 } := by
      rw [processOp_sm_moving (by omega), if_neg (by omega)]
    rw [processAll, ih (by rw [hstep]; exact Nat.lt_sub_of_add_lt hlt), hstep, List.length_cons, addTimes, Nat.sub_sub,
      Nat.add_comm us.length]

/-- A smoother whose rest, if it is at rest, is its target is there once no step remains, and stays. -/
theorem processAll_reaches_target (c : Config) {us : List F64} {s : State} (hrest : s.sm.rem = 0 → s.sm.cur = s.sm.tgt)
    (hle : s.sm.rem ≤ us.length) :
    (processAll c us s).sm.cur = s.sm.tgt ∧ (processAll c us s).sm.rem = 0 := by
  induction us generalizing s with
  | nil =>
    have hrem : s.sm.rem = 0 := Nat.le_zero.1 hle
    exact ⟨hrest hrem, hrem⟩
  | cons u us ih =>
    have htgt : (processOp c u s).sm.tgt = s.sm.tgt := by simp
    have hrest' : (processOp c u s).sm.rem = 0 → (processOp c u s).sm.cur = (processOp c u s).sm.tgt := by
      intro hrem'
      by_cases hrem : s.sm.rem = 0
      · rw [processOp_sm, smoothStep_atRest c s hrem, hrest hrem]
      · rw [processOp_sm_moving hrem] at hrem' ⊢
        exact if_pos (by dsimp only at hrem'; omega)
    have hle' : (processOp c u s).sm.rem ≤ us.length := by simpa using hle
    exact htgt ▸ ih hrest' hle'

end

/-! ### The obligations -/

/-- Settles O27: the invariant passes from sample to sample, the increment is added before the last step, and the last step lands on
the target. -/
theorem rampFollowsItsTrajectory : Obligations.RampFollowsItsTrajectory := by
  intro c h us s hcons hsm hrate t
  obtain ⟨⟨hcons', hcut, -⟩, hfault⟩ := RegsOk.processAll (RegsOk.setCutOp ⟨hcons, hsm⟩ h) hrate us
  obtain ⟨-, -, hlen, -⟩ := hsm
  refine ⟨hcons', hcut, hfault, fun hlt => ?_, fun hle => ?_⟩
  · have hramp := processAll_sm_before_last_step c (s := setCutOp h s) hlt
    exact ⟨congrArg Smoother.cur hramp, congrArg Smoother.rem hramp⟩
  · exact processAll_reaches_target c (s := setCutOp h s) (fun hrem => absurd hrem (Nat.one_le_iff_ne_zero.1 hlen)) hle

/-- Settles O28: one case for each thing that can happen to the remaining steps. A full ramp is at least one step, so SETCUT never ends
in rest, and one step taken off leaves none only where one was left. -/
theorem restIsLeftBySetCutReachedByLastStep : Obligations.RestIsLeftBySetCutReachedByLastStep := by
  intro i s t ⟨_, _, hlen, _⟩ hx
  obtain ⟨h, hi, hrem⟩ | ⟨u, hi, hrem⟩ | hrem := exec_next_rem_cases hx
  · exact ⟨fun _ _ => ⟨h, hi⟩, fun _ _ => by omega⟩
  · exact ⟨fun _ _ => by omega, fun _ _ => ⟨⟨u, hi⟩, by omega⟩⟩
  · exact ⟨fun h0 hne => absurd (hrem.2 h0) hne, fun hne h0 => absurd (hrem.1 h0) hne⟩

/-- Settles O15: SETRATE goes on to what it writes, with the re-clock of a smoother at rest and of a moving one. -/
theorem setRateResult : Obligations.SetRateResult := by
  intro r s
  rw [exec_setRate, setRateOp_eq]
  refine ⟨fun hrem => ?_, fun hrem => ?_⟩
  · rw [reclock_atRest config r hrem]
  · rw [reclock_moving config r hrem, stepOver]

/-- Settles O16: SETCUT goes on to what it writes, a ramp of full length. -/
theorem setCutResult : Obligations.SetCutResult := by
  intro h s
  refine ⟨?_, fun hlen => ⟨_, exec_setCut h s, Nat.one_le_iff_ne_zero.1 hlen⟩⟩
  rw [exec_setCut, setCutOp_eq, stepOver]

end Sys2Proof.Machine
end

section
/-! The outcomes of a command, the sticky fault bit, and the block with nothing to do (spec 60_exceptions.md R192, R200;
42_process_sample.md R146). -/

namespace Sys2Proof.Machine

/-! ### The outcomes of a command (R146, R192) -/

/-- The operations go on from every state; SETTYPE does if its operand is a type code. -/
theorem exec_of_isCommand {i : Instr} (hi : i.isCommand = true) (s : State) : ∃ t, exec i s = .next t := by
  cases i with
  | setRate r => exact ⟨_, exec_setRate r s⟩
  | setCut h => exact ⟨_, exec_setCut h s⟩
  | setQ v => exact ⟨_, exec_setQ v s⟩
  | setGain g => exact ⟨_, exec_setGain g s⟩
  | setType sel =>
    obtain ⟨y, hy⟩ := Option.isSome_iff_exists.1 ((typeOfCode_legal sel).trans hi)
    exact ⟨_, exec_setType hy s⟩
  | process u => exact ⟨_, exec_process u s⟩
  | reservedType6 | reservedType7 | reservedOp6 | reservedOp7 => simp [Instr.isCommand] at hi

/-- R77: what is no command is a reserved opcode, or has `op` 4 and data above 5. -/
theorem not_isCommand_cases {i : Instr} (hi : i.isCommand = false) :
    ((∃ d, i = .reservedOp6 d) ∨ ∃ d, i = .reservedOp7 d) ∨ (i.op = 4#3 ∧ 5 < i.data.toNat) := by
  cases i with
  | setType sel =>
    have hsel : 5 < sel.toNat := by simpa [Instr.isCommand, legalTypeCode] using hi
    have hdata : (sel.setWidth 64).toNat = sel.toNat := BitVec.toNat_setWidth_of_le (by decide)
    exact .inr ⟨rfl, hsel.trans_eq hdata.symm⟩
  | reservedType6 | reservedType7 => exact .inr ⟨rfl, by decide⟩
  | reservedOp6 d => exact .inl (.inl ⟨d, rfl⟩)
  | reservedOp7 d => exact .inl (.inr ⟨d, rfl⟩)
  | setRate | setCut | setQ | setGain | process => simp [Instr.isCommand] at hi

/-- The guard of R140 stands before PROCESS alone. -/
theorem lacksCoef_eq_true_iff {c : Config} {i : Instr} {s : State} :
    lacksCoef c i s = true ↔ (∃ u, i = .process u) ∧ (smoothStep c s).coef = none := by
  cases i <;> simp [lacksCoef]

theorem strictExec_of_lacksCoef {i : Instr} {s : State} (h : lacksCoef config i s = true) :
    strictExec i s = .fault .processBeforeRate := by
  simp [strictExec, guarded, h, faultOutcome]

theorem strictExec_of_not_lacksCoef {i : Instr} {s : State} (h : ¬ lacksCoef config i s = true) :
    strictExec i s = exec i s := by
  simp [strictExec, guarded, h]

/-! ### With nothing to do (R200) -/

theorem step_idle {s : State} (hf : s.port.inFlight = none) (ha : s.host.acts = []) : step s = .next s := by
  simp [step, nextAct, hf, ha]

/-- An edge that neither resets nor presents a command nor takes a beat: a beat on offer is held. -/
theorem clockEdge_hold {s : State} {e : Edge} (hf : s.port.inFlight = none) (hrst : e.pins.rst = false)
    (hv : e.pins.cmdValid = false) (hready : e.pins.rspReady = false) : clockEdge e s = s := by
  cases hr : s.port.rsp with
  | none => exact clockEdge_idle hrst hf hr hv
  | some v => rw [clockEdge_offer hrst hf hr, hready, takeBeat_false]

/-! ### The obligations -/

/-- Settles O10: a command goes on, and what is no command is refused by its opcode or by its data; the guard of the strict reading is
the fault's condition. -/
theorem outcomesAreTheListedOnes : Obligations.OutcomesAreTheListedOnes := by
  intro i s
  refine ⟨?_, fun h => strictExec_of_lacksCoef (lacksCoef_eq_true_iff.2 h),
    fun h => strictExec_of_not_lacksCoef (mt lacksCoef_eq_true_iff.1 h)⟩
  cases hi : i.isCommand with
  | true =>
    obtain ⟨t, hx⟩ := exec_of_isCommand hi s
    exact .inl ⟨t, hx, rfl⟩
  | false =>
    obtain hrow | ⟨hop, hdata⟩ := not_isCommand_cases hi
    · have hop : i.op = 6#3 ∨ i.op = 7#3 := by
        obtain ⟨d, rfl⟩ | ⟨d, rfl⟩ := hrow
        · exact .inl rfl
        · exact .inr rfl
      exact .inr (.inl ⟨exec_refused_of_op hop, hrow⟩)
    · exact .inr (.inr ⟨exec_refused_of_data hop hdata, hop, rfl⟩)

/-- Settles O59: by induction along the edges, since of all that an edge can do only the reset clears the bit. -/
theorem faultBitClearedOnlyByReset : Obligations.FaultBitClearedOnlyByReset := fun _ _ hes hs =>
  clockEdges_fault_of_fault hes hs

/-- Settles O11: the step with no act to do, and the edge on which every pin that asks for something is low. -/
theorem idleBlockKeepsEverything : Obligations.IdleBlockKeepsEverything :=
  ⟨fun _ => step_idle, fun _ _ => clockEdge_hold⟩

end Sys2Proof.Machine
end

section
/-! Reset and the order of commands (spec 70_reset_and_hazards.md R210, R212, R220): an edge with `rst`, the latest edge at which a command
in flight completes, and a setter issued before SETRATE. -/

namespace Sys2Proof.Machine

/-! ### An edge with `rst` (R210, R194) -/

@[simp] theorem takeBeat_host (ready : Bool) (s : State) : (takeBeat ready s).host = { s.host with
    taken := s.host.taken ++ if ready then s.port.rsp.toList else [] } := by
  cases ready with
  | false => simp
  | true =>
    cases hr : s.port.rsp with
    | none => simp [State.deliver_of_rsp_none hr]
    | some v => simp [State.deliver_of_rsp_some hr]

@[simp] theorem takeBeat_refusal (ready : Bool) (s : State) : (takeBeat ready s).refusal = s.refusal := by
  cases ready <;> simp

@[simp] theorem takeBeat_free (ready : Bool) (s : State) : (takeBeat ready s).free = s.free := by
  cases ready <;> simp

theorem clockEdge_reset {e : Edge} (hrst : e.pins.rst = true) (s : State) :
    clockEdge e s = (takeBeat e.pins.rspReady s).resetBlock config := by
  simp [clockEdge, clockEdgeBy, hrst]

/-- Right after a reset there is no beat to take, so a reset edge finds what it would write. -/
theorem clockEdge_reset_resetBlock {e : Edge} (hrst : e.pins.rst = true) (s : State) :
    clockEdge e (s.resetBlock config) = s.resetBlock config := by
  have hbeat : takeBeat e.pins.rspReady (s.resetBlock config) = s.resetBlock config := by
    cases e.pins.rspReady <;> rfl
  rw [clockEdge_reset hrst, hbeat]
  rfl

/-! ### The latest edge of a completion (R220) -/

/-- A command in flight is counted at every edge at which it waits, so it completes before the count passes `LAT_MAX`. -/
theorem clockEdges_completes {es : List Edge} {f : InFlight} {s : State} (hf : s.port.inFlight = some f)
    (hes : ∀ e ∈ es, e.pins.rst = false) (hne : es ≠ []) (hlen : config.latMax ≤ f.age + es.length) :
    ∃ k, 0 < k ∧ k ≤ es.length ∧ clockEdges (es.take k) s = completeWord f.word (s.setInFlight none) := by
  induction es generalizing f s with
  | nil => exact absurd rfl hne
  | cons e es ih =>
    obtain ⟨hrst, hes⟩ := List.forall_mem_cons.1 hes
    cases hc : e.completes || mustComplete config f with
    | true => exact ⟨1, Nat.one_pos, Nat.le_add_left .., clockEdge_complete hrst hf hc⟩
    | false =>
      have hage : f.age + 1 < config.latMax := Nat.lt_of_not_le (of_decide_eq_false (Bool.or_eq_false_iff.1 hc).2)
      rw [List.length_cons] at hlen
      have hmore : es ≠ [] := List.ne_nil_of_length_pos (by omega)
      obtain ⟨k, -, hk, hdone⟩ := ih (s := s.setInFlight (some { f with age := f.age + 1 })) rfl hes hmore (by dsimp only; omega)
      refine ⟨k + 1, k.succ_pos, Nat.succ_le_succ hk, ?_⟩
      rw [List.take_succ_cons, clockEdges, clockEdge_wait hrst hf hc, hdone, setInFlight_setInFlight]

/-! ### A setter before SETRATE (R212) -/

section
variable (c : Config) (r : F64)

/-- R173, R212: the ramp a SETCUT plans and SETRATE re-plans is the ramp planned after it; the target set first must have made the
smoother move. -/
theorem reclock_setTarget (h : F64) {m : Smoother} (hlen : 1 ≤ m.len) :
    (m.setTarget h).reclock c r = (m.reclock c r).setTarget h := by
  have hmoving : (m.setTarget h).rem ≠ 0 := Nat.one_le_iff_ne_zero.1 hlen
  rw [reclock_moving c r hmoving]
  simp [Smoother.setTarget]

theorem setRateOp_setCutOp (h : F64) {s : State} (hlen : 1 ≤ s.sm.len) :
    setRateOp c r (setCutOp h s) = setCutOp h (setRateOp c r s) := by
  have hsm : (setCutOp h s).sm.reclock c r = (s.sm.reclock c r).setTarget h := reclock_setTarget c r h hlen
  rw [setRateOp, hsm]
  rfl

variable (s : State)

theorem setRateOp_setQOp (v : F64) : setRateOp c r (setQOp c v s) = setQOp c v (setRateOp c r s) := rfl

theorem setRateOp_setGainOp (g : F64) : setRateOp c r (setGainOp c g s) = setGainOp c g (setRateOp c r s) := rfl

theorem setRateOp_setTypeOp (y : FilterType) : setRateOp c r (setTypeOp c y s) = setTypeOp c y (setRateOp c r s) := rfl

end

/-! ### The obligations -/

/-- Settles O20: one commutation for each of the four setters, that of SETCUT for a ramp of at least one step. -/
theorem settersCommuteWithSetRate : Obligations.SettersCommuteWithSetRate := by
  intro i r s t t' hProcess hSetRate hlen hx hy
  refine ⟨_, exec_setRate r s, ?_⟩
  rw [exec_setRate] at hy
  rw [← hy]
  obtain ⟨x, rfl, -⟩ | ⟨x, rfl, rfl⟩ | ⟨v, rfl, rfl⟩ | ⟨g, rfl, rfl⟩ | ⟨sel, y, rfl, hsel, rfl⟩ | ⟨u, rfl, -⟩ :=
    exec_next_cases hx
  · exact absurd rfl (hSetRate x)
  · rw [exec_setCut, setRateOp_setCutOp config r x hlen]
  · rw [exec_setQ, setRateOp_setQOp]
  · rw [exec_setGain, setRateOp_setGainOp]
  · rw [exec_setType hsel, setRateOp_setTypeOp]
  · exact absurd rfl (hProcess u)

/-- Settles O58: the count starts at 0, so `LAT_MAX` edges, and one at least, are enough. -/
theorem acceptedCommandCompletesWithinLatMax : Obligations.AcceptedCommandCompletesWithinLatMax := by
  intro s f es hf hage hes hlen
  have hne : es ≠ [] := List.ne_nil_of_length_pos (by omega)
  exact clockEdges_completes hf hes hne (by omega)

/-- Settles O13: a reset edge is the reset of the block after the beat is taken, and finds nothing to change after another one. -/
theorem resetEdgeWinsAndDropsEverything : Obligations.ResetEdgeWinsAndDropsEverything := by
  intro e s hrst
  rw [clockEdge_reset hrst]
  refine ⟨?_, rfl, rfl, fun e' hrst' => clockEdge_reset_resetBlock hrst' _⟩
  rw [State.resetBlock, takeBeat_host, takeBeat_refusal, takeBeat_free, State.reset]

end Sys2Proof.Machine
end
